-- ==== Sys2Proof/Word.lean ====
section
/-! DEFINITION. The two widths the spec names: a byte of surface memory (20_memory.md R47, R50) and a
32-bit word (10_state.md section 3). Bit 0 is the least significant bit (00_scope.md R13), as in `BitVec`. -/

namespace Sys2Proof

/-- One byte of surface memory or of the scratch buffer. -/
abbrev Byte := BitVec 8

/-- One register word, one command word, or one surface-memory address. -/
abbrev Word := BitVec 32

end Sys2Proof
end

