-- ==== Sys2Proof/Syntax.lean ====
section
/-! DEFINITION. The five commands of 30_encoding.md R69 and R71: one constructor per row of the opcode table. -/

namespace Sys2Proof

/-- A command of the block. Coordinates are the unsigned integers of 00_scope.md R16 (column `x`, row `y`); that
they fit the 8-bit fields of the command word is `Instr.wf`. A pixel value is 1 = foreground = `true` (R12). -/
inductive Instr where
  /-- `NOP`: completes with no other effect (42_buffer_control.md R111). -/
  | nop
  /-- `ROTATE`: rotates the source buffer into the destination buffer (41_rotate.md R91). -/
  | rotate
  /-- `CLEAR`: clears the destination buffer (42_buffer_control.md R109). -/
  | clear
  /-- `GETPIX x, y`: reads a pixel of the source buffer into RESULT (40_pixel_access.md R86). -/
  | getpix (x y : Nat)
  /-- `SETPIX x, y, v`: writes a pixel of the destination buffer (40_pixel_access.md R88). -/
  | setpix (x y : Nat) (v : Bool)
deriving DecidableEq, Repr, Inhabited

end Sys2Proof
end

