-- ==== Sys2Proof/WellFormed.lean ====
section
/-! DEFINITION. Which commands the command word can carry: 30_encoding.md R70 and R77 ("0 <= x, y <= 255"). Whether
a coordinate is below N is not asked here: that is the RANGE test of 60_exceptions.md R116, made when the command is
submitted. -/

namespace Sys2Proof

/-- The operands fit their fields: X and Y are 8 bits wide (30_encoding.md R68, R70). -/
def Instr.wf : Instr → Bool
  | .nop => true
  | .rotate => true
  | .clear => true
  | .getpix x y => x < 256 && y < 256
  | .setpix x y _ => x < 256 && y < 256

end Sys2Proof
end

