-- ==== Sys2Proof/Decode.lean ====
section
/-! DEFINITION. The command word CMD32 (30_encoding.md R67 to R76): the decoder of R72, total on every 32-bit word, the
reason an ILLEGAL word is one (R73, R74), the encoder written from the field table R68, and the opcode table R71. -/

namespace Sys2Proof

/-- Why a word decodes as ILLEGAL. Both are rejected alike, with code ILLEGAL (30_encoding.md R73, R74). -/
inductive Illegal where
  /-- OP is 0x5 to 0xF (30_encoding.md R73). -/
  | reservedOp (op : BitVec 4)
  /-- OP names a command, and a bit that must be zero in its row is one (30_encoding.md R74). -/
  | mustBeZero (op : BitVec 4)
deriving DecidableEq, Repr

/-- The OP field, bits 3:0 (30_encoding.md R68). -/
def opField (w : Word) : BitVec 4 := w.extractLsb' 0 4

/-- The X field, bits 23:16, unsigned (30_encoding.md R70). -/
def xField (w : Word) : Nat := (w.extractLsb' 16 8).toNat

/-- The Y field, bits 31:24, unsigned (30_encoding.md R70). -/
def yField (w : Word) : Nat := (w.extractLsb' 24 8).toNat

/-- The V field, bit 8 (30_encoding.md R70). -/
def vField (w : Word) : Bool := w.getLsbD 8

/-- The decode function of 30_encoding.md R72. -/
def decode (w : Word) : Except Illegal Instr :=
  let op := opField w
  if op = 0x0#4 then
    if w = 0x00000000#32 then .ok .nop else .error (.mustBeZero op)
  else if op = 0x1#4 then
    if w = 0x00000001#32 then .ok .rotate else .error (.mustBeZero op)
  else if op = 0x2#4 then
    if w = 0x00000002#32 then .ok .clear else .error (.mustBeZero op)
  else if op = 0x3#4 then
    if w.extractLsb' 4 12 = 0#12 then .ok (.getpix (xField w) (yField w)) else .error (.mustBeZero op)
  else if op = 0x4#4 then
    if w.extractLsb' 9 7 = 0#7 ∧ w.extractLsb' 4 4 = 0#4 then .ok (.setpix (xField w) (yField w) (vField w))
    else .error (.mustBeZero op)
  else .error (.reservedOp op)

/-- The instruction the decoder reads from a table row's bits. A command is ONE 32-bit word, written to CMD as a
whole (30_encoding.md R67; 10_state.md R40): no byte order arises, and bits above `nbits` are 0. -/
def decodeTableWord (nbits w : Nat) : Option Instr :=
  if nbits ≤ 32 then
    match decode (BitVec.ofNat 32 (w % 2 ^ nbits)) with
    | .ok i => some i
    | .error _ => none
  else none

/-- The OP value of a command (30_encoding.md R69). -/
def Instr.op : Instr → BitVec 4
  | .nop => 0x0#4
  | .rotate => 0x1#4
  | .clear => 0x2#4
  | .getpix _ _ => 0x3#4
  | .setpix _ _ _ => 0x4#4

/-- The X operand, 0 for a command that takes none (30_encoding.md R77, 60_exceptions.md R116 "c.X or 0"). -/
def Instr.xOperand : Instr → Nat
  | .nop => 0
  | .rotate => 0
  | .clear => 0
  | .getpix x _ => x
  | .setpix x _ _ => x

/-- The Y operand, 0 for a command that takes none. -/
def Instr.yOperand : Instr → Nat
  | .nop => 0
  | .rotate => 0
  | .clear => 0
  | .getpix _ y => y
  | .setpix _ y _ => y

/-- The V operand, 0 for a command that takes none. -/
def Instr.vOperand : Instr → Bool
  | .nop => false
  | .rotate => false
  | .clear => false
  | .getpix _ _ => false
  | .setpix _ _ v => v

/-- A command word laid out by the field table of 30_encoding.md R68: `(y << 24) | (x << 16) | (v << 8) | OP`, the
must-be-zero fields 0 (R77). -/
def packFields (y x : BitVec 8) (v : Bool) (op : BitVec 4) : Word :=
  y.setWidth 32 <<< 24 ||| x.setWidth 32 <<< 16 ||| (BitVec.ofBool v).setWidth 32 <<< 8 ||| op.setWidth 32

/-- The word of a well-formed command (30_encoding.md R71, R77). -/
def encode (i : Instr) : Word :=
  packFields (BitVec.ofNat 8 i.yOperand) (BitVec.ofNat 8 i.xOperand) i.vOperand i.op

/-- One row of the table of 30_encoding.md R71: a word is the command when `w &&& mask = pattern`. -/
structure OpRow where
  op : BitVec 4
  pattern : Word
  mask : Word
deriving DecidableEq, Repr

/-- The five rows of 30_encoding.md R71: NOP, ROTATE, CLEAR, GETPIX, SETPIX. -/
def opRows : List OpRow :=
  [ { op := 0x0#4, pattern := 0x00000000#32, mask := 0xFFFFFFFF#32 },
    { op := 0x1#4, pattern := 0x00000001#32, mask := 0xFFFFFFFF#32 },
    { op := 0x2#4, pattern := 0x00000002#32, mask := 0xFFFFFFFF#32 },
    { op := 0x3#4, pattern := 0x00000003#32, mask := 0x0000FFFF#32 },
    { op := 0x4#4, pattern := 0x00000004#32, mask := 0x0000FEFF#32 } ]

/-- A word matches a row of the opcode table (30_encoding.md R71). -/
def OpRow.matchesWord (r : OpRow) (w : Word) : Bool := w &&& r.mask == r.pattern

end Sys2Proof
end

