-- ==== Sys2Proof/Config.lean ====
section
/-! DEFINITION. What an implementation fixes: the build parameters of 00_scope.md section 4, and the free values that
stand for what the spec calls unspecified. The parameters' limits and what is derived from them (STRIDE, BUFBYTES) are
in Machine/Operands.lean. -/

namespace Sys2Proof

/-- The build parameters of one built block (00_scope.md R7, R8, R11). A model takes them as an argument: they stand
in `State.build`, which no step writes, so that a statement about every state is about every build. -/
structure Build where
  /-- N, the side of the square canvas in pixels (00_scope.md R7). -/
  n : Nat
  /-- STRIDE_ALIGN, the row alignment in bytes (00_scope.md R8). -/
  strideAlign : Nat
  /-- MEM_BYTES, the size of surface memory in bytes (00_scope.md R11). -/
  memBytes : Nat
deriving DecidableEq, Repr, Inhabited

/-- Free value: the k-th byte that the spec leaves unspecified in a run (20_memory.md R62, 70_reset_and_hazards.md
R138, 10_state.md R37). It has no body, so nothing can be proved of its value. -/
opaque Config.freeByte : Nat → Byte

/-- Free value: the k-th word drawn for the fields of LCMD, which hold no meaningful value after a reset
(70_reset_and_hazards.md R137, 10_state.md R38). -/
opaque Config.freeWord : Nat → Word

/-- Free value: what surface memory holds at an address that nothing has written since power-up (20_memory.md R55,
70_reset_and_hazards.md R136). One value for each address, so it is drawn once and stable until written. It has no
body, so nothing can be proved of its value. -/
opaque Config.powerUpByte : Nat → Byte

/-- Free value: what SCR holds at an index that nothing has written since power-up (10_state.md R37,
70_reset_and_hazards.md R136). -/
opaque Config.powerUpScratch : Nat → Byte

end Sys2Proof
end

