-- ==== Sys2Proof/Machine/State.lean ====
section
/-! DEFINITION. The state of the block and of what acts on it: the tuple of 10_state.md R45 (registers, LCMD, SCR, MEM,
faults, refused), the ports that hold something, the host program (30_encoding.md R79), and which agent moves next. -/

namespace Sys2Proof.Machine

/-- The bytes written since power-up at their addresses, in ONE canonical form (`Memory.wf`): addresses strictly rising.
An address that no entry lists has not been written: it holds no value of the model's and reads as a free value
(`Memory.read`, log 2). Surface memory (20_memory.md R47) and the scratch buffer (10_state.md R37) are both held so. -/
abbrev Memory := List Host.Cell

/-- LCMD, the latched command (10_state.md R38). -/
structure Latched where
  /-- OP, the operation in flight. -/
  op : BitVec 4
  /-- SB, SRC_BASE at acceptance. -/
  sb : Word
  /-- DB, DST_BASE at acceptance. -/
  db : Word
  /-- D, CTRL.DIR at acceptance: `false` clockwise, `true` counter-clockwise. -/
  d : Bool
  /-- X, the column field of the command word. -/
  x : BitVec 8
  /-- Y, the row field of the command word. -/
  y : BitVec 8
  /-- V, the pixel value field of the command word. -/
  v : Bool
deriving DecidableEq, Repr, Inhabited

/-- The four causes of rejection (60_exceptions.md R115). -/
inductive Reject where
  /-- Code 1: the word decodes as ILLEGAL. -/
  | illegal
  /-- Code 2: a command was written while BUSY = 1. -/
  | busy
  /-- Code 3: a coordinate is not below N. -/
  | range
  /-- Code 4: a buffer the command uses is not in bounds. -/
  | bounds
deriving DecidableEq, Repr

/-- A fault record of a run (60_exceptions.md R134): the one kind the spec names. -/
inductive FaultRecord where
  /-- The host wrote (`write`) or read the byte at `a` against 20_memory.md R62. -/
  | concurrentAccess (a : Word) (write : Bool)
deriving DecidableEq, Repr

/-- How wide a register access is. Only the aligned word is supported (10_state.md R40). -/
inductive AccessSize where
  | byte
  | half
  | word
deriving DecidableEq, Repr

/-- One operation of a host program (30_encoding.md R79). A register is given by its byte offset in the window, a name
and a label by a number. -/
inductive HostOp where
  /-- `W REG, value`: a register write. -/
  | regWrite (off : BitVec 6) (size : AccessSize) (v : Word)
  /-- `R REG -> name`: a register read. -/
  | regRead (off : BitVec 6) (size : AccessSize) (name : Nat)
  /-- `C <command>`: a write of the assembled word to CMD. -/
  | cmd (i : Instr)
  /-- `MW addr, byte`: the host writes one surface-memory byte. -/
  | memWrite (a : Word) (b : Byte)
  /-- `MR addr -> name`: the host reads one surface-memory byte. -/
  | memRead (a : Word) (name : Nat)
  /-- `WAIT`: the loop `R STATUS -> s ; until s[0] == 0`, which binds the name `s` (`waitName`). -/
  | wait
  /-- `label:`, a position in the program. -/
  | label (l : Nat)
  /-- `BNZ name, mask, label`. -/
  | branchNZ (name : Nat) (mask : Word) (l : Nat)
deriving DecidableEq, Repr

/-- Who moves in a step: an agent of 10_state.md R20, or the reset pin taking a level (70_reset_and_hazards.md
R137). -/
inductive Turn where
  | host
  | engine
  | reset (asserted : Bool)
deriving DecidableEq, Repr

/-- Why a step stops with a fault. None is raised by a command in a state a run reaches (60_exceptions.md R134: "An
accepted command never faults"). -/
inductive Fault where
  /-- Raised by a host byte access at an address of no surface-memory byte (20_memory.md R47: 0 <= a < MEM_BYTES).
  Safe: the spec gives such an access no effect. -/
  | outsideSurfaceMemory (a : Word)
  /-- Raised by the engine when the latched operands do not fit their buffers. Acceptance excludes it
  (60_exceptions.md R116), so no run reaches it. Safe. -/
  | engineOutsideBuffer
  /-- Raised by the engine when LCMD.OP is no command's. Acceptance excludes it, so no run reaches it. Safe. -/
  | noLatchedCommand
deriving DecidableEq, Repr

/-- Why a step is refused. -/
inductive Refusal where
  /-- Raised by an arm of `exec` that has no meaning yet. Safe. -/
  | notModelled (mnemonic : String)
  /-- Raised by every step of a run that made a sub-word or misaligned register access (10_state.md R40,
  60_exceptions.md R134). Safe: the spec says that a model refuses such a program. -/
  | subwordRegisterAccess
  /-- Raised by every step of a build that breaks a limit of 00_scope.md R7 to R11 (93_implementation_defined.md U15:
  refuse the configuration). Safe. -/
  | invalidConfiguration
  /-- Raised by a host operation that is none of 30_encoding.md R79: a branch on a name nothing has bound or to a label
  that is not there, or a command whose operand exceeds its field (R77, an assembly error). Safe. -/
  | badHostProgram
deriving DecidableEq, Repr

/-- Everything the spec gives the machine, and the agents around it (INVENTORY.md, '## State'). -/
structure State where
  /-- The build parameters, written by no step (00_scope.md R7, R8, R11). -/
  build : Build
  /-- CTRL.DIR (10_state.md R27). -/
  dir : Bool
  /-- CTRL.IRQ_EN (10_state.md R27). -/
  irqEn : Bool
  /-- SRC_BASE (10_state.md R28). -/
  srcBase : Word
  /-- DST_BASE (10_state.md R29). -/
  dstBase : Word
  /-- STATUS.BUSY (10_state.md R32). -/
  busy : Bool
  /-- STATUS.DONE (10_state.md R33). -/
  done : Bool
  /-- STATUS.INVAL (10_state.md R34). -/
  inval : Bool
  /-- STATUS.ERRV (10_state.md R35). -/
  errv : Bool
  /-- STATUS.ERRCODE (10_state.md R35). -/
  errcode : BitVec 4
  /-- RESULT.PIXEL (10_state.md R36). -/
  pixel : Bool
  /-- LCMD (10_state.md R38). -/
  lcmd : Latched
  /-- SCR, the scratch buffer (10_state.md R37). -/
  scr : Memory
  /-- MEM, surface memory (20_memory.md R47). -/
  mem : Memory
  /-- The fault records of the run, a set that only grows (10_state.md R45). -/
  faults : List FaultRecord
  /-- The refusal flag of the run (10_state.md R45). -/
  refused : Bool
  /-- The level at the port rst (10_state.md R20). -/
  rst : Bool
  /-- The port inval_o: up in the state right after a ROTATE completion only (60_exceptions.md R123). -/
  invalO : Bool
  /-- The port reg_rdata: the data of the last register read (10_state.md R20). -/
  rdata : Word
  /-- The host program (30_encoding.md R79). -/
  prog : List HostOp
  /-- The position of the host's next operation. -/
  hostPc : Nat
  /-- What R, MR and WAIT have bound to names. -/
  names : List (Nat × Word)
  /-- The model's own: who moves next, in order; see `State.turn` for the empty list. -/
  turns : List Turn
  /-- The model's own: a hazard of 20_memory.md R62 has struck the command in flight. -/
  raced : Bool
  /-- The model's own: how many free values the run has drawn. -/
  draws : Nat
deriving DecidableEq, Repr

/-- The machine right after reset at power-up (70_reset_and_hazards.md R136, R137; 10_state.md section 9). Surface
memory and SCR list nothing: every byte of them is a free value (logs 2 and 3). The build is the model's choice (log 1:
DESIGN CHOICE, unsafe, the largest canvas, so that every coordinate of a command word is in range), as are LCMD,
reg_rdata and the draw counter (logs 4, 14, 7: DESIGN CHOICE, unsafe). -/
def State.reset : State :=
  { build := { n := 256, strideAlign := 1, memBytes := 4294967296 }
    dir := false
    irqEn := false
    srcBase := 0#32
    dstBase := 0#32
    busy := false
    done := false
    inval := false
    errv := false
    errcode := 0#4
    pixel := false
    lcmd := { op := 0#4, sb := 0#32, db := 0#32, d := false, x := 0#8, y := 0#8, v := false }
    scr := []
    mem := []
    faults := []
    refused := false
    rst := false
    invalO := false
    rdata := 0#32
    prog := []
    hostPc := 0
    names := []
    turns := []
    raced := false
    draws := 0 }

end Sys2Proof.Machine
end

