-- ==== Sys2Proof/Machine/Operands.lean ====
section
/-! DEFINITION. Addresses, coordinates and the two datapath units: the parameters derived from the build
(00_scope.md R7 to R11), the packed-pixel address functions (R17), the bit extractor and bit writer
(40_pixel_access.md R81, R82), the rotation maps (41_rotate.md R95, R96), the in-bounds and range tests
(60_exceptions.md R118, 30_encoding.md R70), and the register window's offsets (10_state.md section 3). All arithmetic
is on unbounded non-negative integers (00_scope.md R14). -/

namespace Sys2Proof

/-- MINSTRIDE = ceil(N / 8) (00_scope.md R9). -/
def Build.minStride (b : Build) : Nat := (b.n + 7) / 8

/-- STRIDE = align_up(MINSTRIDE, STRIDE_ALIGN) (00_scope.md R9). -/
def Build.stride (b : Build) : Nat :=
  (b.minStride + b.strideAlign - 1) / b.strideAlign * b.strideAlign

/-- BUFBYTES = STRIDE * N (00_scope.md R10). -/
def Build.bufBytes (b : Build) : Nat := b.stride * b.n

/-- The limits of 00_scope.md R7, R8 and R11: 1 <= N <= 256; STRIDE_ALIGN a power of two, 1 to 64; BUFBYTES <=
MEM_BYTES <= 2^32. A build that breaks one is no block. -/
def Build.valid (b : Build) : Bool :=
  1 ≤ b.n && b.n ≤ 256 && [1, 2, 4, 8, 16, 32, 64].contains b.strideAlign &&
    b.bufBytes ≤ b.memBytes && b.memBytes ≤ 4294967296

namespace Machine

/-- byte_addr(base, x, y) (00_scope.md R17). -/
def byteAddr (b : Build) (base x y : Nat) : Nat := base + y * b.stride + x / 8

/-- bit_pos(x) = 7 - (x mod 8) (00_scope.md R17). -/
def bitPos (x : Nat) : Nat := 7 - x % 8

/-- bit_mask(x) = 1 << bit_pos(x) (00_scope.md R17). -/
def bitMask (x : Nat) : Byte := 1#8 <<< bitPos x

/-- The bit extractor (40_pixel_access.md R81). -/
def extractBit (b : Byte) (x : Nat) : Bool := (b >>> bitPos x) &&& 1#8 == 1#8

/-- The bit writer (40_pixel_access.md R82). -/
def putBit (b : Byte) (x : Nat) (v : Bool) : Byte :=
  if v then b ||| bitMask x else b &&& (0xFF#8 ^^^ bitMask x)

/-- The coordinate map of the rotation: clockwise for D = 0 (41_rotate.md R95), counter-clockwise for D = 1 (R96). -/
def rotMap (n : Nat) (d : Bool) (x y : Nat) : Nat × Nat :=
  if d then (y, n - 1 - x) else (n - 1 - y, x)

/-- ok(b) = (b + BUFBYTES <= MEM_BYTES), without wrap-around (60_exceptions.md R118, 20_memory.md R49). -/
def regionOk (b : Build) (base : Word) : Bool := base.toNat + b.bufBytes ≤ b.memBytes

/-- Both coordinates are below N (30_encoding.md R70, 40_pixel_access.md R85). -/
def coordOk (b : Build) (x y : Nat) : Bool := x < b.n && y < b.n

/-- A set of consecutive bytes of surface memory. -/
structure Span where
  start : Nat
  len : Nat
deriving DecidableEq, Repr

/-- No byte. -/
def emptySpan : Span := { start := 0, len := 0 }

/-- `a` is a byte of the span. -/
def Span.has (r : Span) (a : Nat) : Bool := r.start ≤ a && a < r.start + r.len

/-- Region(base) = [base, base + BUFBYTES) (20_memory.md R49). -/
def region (b : Build) (base : Word) : Span := { start := base.toNat, len := b.bufBytes }

/-- The one byte that holds pixel (x, y) of the buffer at `base`. -/
def pixelSpan (b : Build) (base : Word) (x y : Nat) : Span :=
  { start := byteAddr b base.toNat x y, len := 1 }

/-- RD, the bytes a latched command reads (20_memory.md section 5). -/
def readSet (b : Build) (l : Latched) : Span :=
  if l.op = 0x1#4 then region b l.sb
  else if l.op = 0x3#4 then pixelSpan b l.sb l.x.toNat l.y.toNat
  else if l.op = 0x4#4 then pixelSpan b l.db l.x.toNat l.y.toNat
  else emptySpan

/-- WR, the bytes a latched command writes (20_memory.md section 5). -/
def writeSet (b : Build) (l : Latched) : Span :=
  if l.op = 0x1#4 then region b l.db
  else if l.op = 0x2#4 then region b l.db
  else if l.op = 0x4#4 then pixelSpan b l.db l.x.toNat l.y.toNat
  else emptySpan

/-- The command that LCMD holds; none for an OP that acceptance never latches. -/
def Latched.instr (l : Latched) : Option Instr :=
  if l.op = 0x0#4 then some .nop
  else if l.op = 0x1#4 then some .rotate
  else if l.op = 0x2#4 then some .clear
  else if l.op = 0x3#4 then some (.getpix l.x.toNat l.y.toNat)
  else if l.op = 0x4#4 then some (.setpix l.x.toNat l.y.toNat l.v)
  else none

/-- The registers of the window (10_state.md section 3). -/
inductive Reg where
  | id | param | memTop | ctrl | srcBase | dstBase | cmd | status | result
  /-- 0x24 to 0x3C (10_state.md R39). -/
  | reserved
deriving DecidableEq, Repr

/-- The register at a byte offset, a multiple of 4 (10_state.md section 3). -/
def regAt (off : BitVec 6) : Reg :=
  if off = 0x00#6 then .id
  else if off = 0x04#6 then .param
  else if off = 0x08#6 then .memTop
  else if off = 0x0C#6 then .ctrl
  else if off = 0x10#6 then .srcBase
  else if off = 0x14#6 then .dstBase
  else if off = 0x18#6 then .cmd
  else if off = 0x1C#6 then .status
  else if off = 0x20#6 then .result
  else .reserved

/-- The one supported register access: an aligned 32-bit word (10_state.md R40). -/
def wordAccess (off : BitVec 6) (size : AccessSize) : Bool :=
  off.toNat % 4 == 0 && size == .word

end Machine

end Sys2Proof
end

