-- ==== Sys2Proof/Machine/Flags.lean ====
section
/-! DEFINITION. The status flags: STATUS as a word and its W1C write (10_state.md R31), CTRL and RESULT as words, the
interrupt output (60_exceptions.md R121), and the flag changes of rejection, acceptance, completion and invalidation
(60_exceptions.md R116, R120; 41_rotate.md R98). -/

namespace Sys2Proof.Machine

/-- The code a rejection records in ERRCODE (60_exceptions.md R115). -/
def Reject.code : Reject → BitVec 4
  | .illegal => 1#4
  | .busy => 2#4
  | .range => 3#4
  | .bounds => 4#4

/-- One flag at bit `k` of a register word. -/
def flagAt (b : Bool) (k : Nat) : Word := (BitVec.ofBool b).setWidth 32 <<< k

/-- CTRL as it reads: IRQ_EN in bit 1, DIR in bit 0, the rest 0 (10_state.md R27). -/
def ctrlBits (irqEn dir : Bool) : Word := flagAt irqEn 1 ||| flagAt dir 0

/-- CTRL as it reads. -/
def State.ctrlWord (s : State) : Word := ctrlBits s.irqEn s.dir

/-- STATUS as it reads: ERRCODE in bits 7:4, ERRV 3, INVAL 2, DONE 1, BUSY 0, the rest 0 (10_state.md R31). -/
def State.statusWord (s : State) : Word :=
  s.errcode.setWidth 32 <<< 4 ||| flagAt s.errv 3 ||| flagAt s.inval 2 ||| flagAt s.done 1 ||| flagAt s.busy 0

/-- RESULT as it reads: PIXEL in bit 0, the rest 0 (10_state.md R36). -/
def State.resultWord (s : State) : Word := flagAt s.pixel 0

/-- irq_o = CTRL.IRQ_EN & (STATUS.DONE | STATUS.ERRV) (60_exceptions.md R121). -/
def State.irqO (s : State) : Bool := s.irqEn && (s.done || s.errv)

/-- A host write to CTRL: DIR and IRQ_EN take bits 0 and 1, reserved bits are ignored (10_state.md R27). -/
def State.writeCtrl (s : State) (v : Word) : State :=
  { s with dir := v.getLsbD 0, irqEn := v.getLsbD 1 }

/-- A host write to STATUS: a one clears DONE (bit 1), INVAL (bit 2), ERRV with ERRCODE (bit 3); the other bits are
ignored (10_state.md R31). -/
def State.writeStatus (s : State) (v : Word) : State :=
  { s with
    done := s.done && !v.getLsbD 1
    inval := s.inval && !v.getLsbD 2
    errv := s.errv && !v.getLsbD 3
    errcode := if v.getLsbD 3 then 0#4 else s.errcode }

/-- raise Reject(code), the block's one exception (60_exceptions.md R116, R125): the first error is kept, nothing else
changes, and control goes nowhere. The host's return from it is the W1C write `State.writeStatus` (R126). -/
def State.reject (s : State) (r : Reject) : State :=
  if s.errv then s else { s with errv := true, errcode := r.code }

/-- Acceptance (60_exceptions.md R116): the operands are latched, BUSY is set and DONE cleared. -/
def State.accept (s : State) (l : Latched) : State :=
  { s with lcmd := l, busy := true, done := false, raced := false }

/-- complete() (60_exceptions.md R120). -/
def State.complete (s : State) : State :=
  { s with busy := false, done := true, raced := false }

/-- Stage 5 of ROTATE but for the completion (41_rotate.md R98): INVAL is set and inval_o pulses. -/
def State.invalidate (s : State) : State :=
  { s with inval := true, invalO := true }

end Sys2Proof.Machine
end

