-- ==== Sys2Proof/Machine/Ops.lean ====
section
/-! DEFINITION. The shared operations: the pseudocode's `for` loop (00_scope.md R15), reading and writing one byte of a
memory in canonical form (20_memory.md R47, R54), copies and clears of a region, free values for what the spec leaves
unspecified, latching, and the two phases every command has (60_exceptions.md R116, R120). -/

namespace Sys2Proof.Machine

/-- `for v in [0, n)`, in rising order (00_scope.md R15). -/
def forRange {α : Type} (n : Nat) (f : Nat → α → α) (a : α) : α :=
  match n with
  | 0 => a
  | k + 1 => f k (forRange k f a)

/-- The byte last written at `a` since power-up, none where nothing has been written. -/
def Memory.entry : Memory → Nat → Option Byte
  | [], _ => none
  | (k, v) :: rest, a => if k = a then some v else Memory.entry rest a

/-- MemRead(a, 1) (00_scope.md R15). A byte that nothing has written reads as a free value, the same at every read
(20_memory.md R55, log 2). -/
def Memory.read (m : Memory) (a : Nat) : Byte := (m.entry a).getD (Config.powerUpByte a)

/-- `SCR[i]` (00_scope.md R15), a free value where nothing has written it (10_state.md R37, log 3). -/
def Memory.readScr (m : Memory) (i : Nat) : Byte := (m.entry i).getD (Config.powerUpScratch i)

/-- MemWrite(a, 1, v) and `SCR[a] <- v` (00_scope.md R15), keeping the canonical form. -/
def Memory.write : Memory → Nat → Byte → Memory
  | [], a, v => [(a, v)]
  | (k, u) :: rest, a, v =>
    if a < k then (a, v) :: (k, u) :: rest
    else if a = k then (a, v) :: rest
    else (k, u) :: Memory.write rest a v

/-- Every entry lies at or above `lo`, and the addresses rise strictly. -/
def Memory.wfFrom : Nat → Memory → Bool
  | _, [] => true
  | lo, (k, _) :: rest => lo ≤ k && Memory.wfFrom (k + 1) rest

/-- The canonical form. -/
def Memory.wf (m : Memory) : Bool := Memory.wfFrom 0 m

/-- Every entry lies below `n`: the memory has `n` bytes. -/
def Memory.below (n : Nat) (m : Memory) : Bool := m.all fun c => c.1 < n

/-- Bytes 0 to len - 1 of `dst` become the bytes of `src` from `start` on (41_rotate.md R92). -/
def Memory.snapshot (src : Memory) (start len : Nat) (dst : Memory) : Memory :=
  forRange len (fun i m => m.write i (src.read (start + i))) dst

/-- The `len` bytes from `start` on become 0x00 (41_rotate.md R93, 42_buffer_control.md R109). -/
def Memory.clear (m : Memory) (start len : Nat) : Memory :=
  forRange len (fun i m => m.write (start + i) 0x00#8) m

/-- The `len` bytes from `start` on become free values, the draws from `draw` on. -/
def Memory.scramble (m : Memory) (start len draw : Nat) : Memory :=
  forRange len (fun i m => m.write (start + i) (Config.freeByte (draw + i))) m

/-- The bytes of a span of surface memory become unspecified (20_memory.md R62, 70_reset_and_hazards.md R138). -/
def State.scrambleMem (s : State) (r : Span) : State :=
  { s with mem := s.mem.scramble r.start r.len s.draws, draws := s.draws + r.len }

/-- The bytes of SCR become unspecified (70_reset_and_hazards.md R138, 10_state.md R37). -/
def State.scrambleScr (s : State) : State :=
  { s with scr := s.scr.scramble 0 s.build.bufBytes s.draws, draws := s.draws + s.build.bufBytes }

/-- LCMD holds no meaningful value (70_reset_and_hazards.md R137). -/
def State.scrambleLcmd (s : State) : State :=
  { s with
    lcmd :=
      { op := (Config.freeWord s.draws).setWidth 4
        sb := Config.freeWord (s.draws + 1)
        db := Config.freeWord (s.draws + 2)
        d := (Config.freeWord (s.draws + 3)).getLsbD 0
        x := (Config.freeWord (s.draws + 4)).setWidth 8
        y := (Config.freeWord (s.draws + 5)).setWidth 8
        v := (Config.freeWord (s.draws + 6)).getLsbD 0 }
    draws := s.draws + 7 }

/-- What acceptance of `i` latches: the command word's fields and the registers as they stand (60_exceptions.md R116,
10_state.md R38). -/
def State.latch (s : State) (i : Instr) : Latched :=
  { op := i.op
    sb := s.srcBase
    db := s.dstBase
    d := s.dir
    x := BitVec.ofNat 8 i.xOperand
    y := BitVec.ofNat 8 i.yOperand
    v := i.vOperand }

/-- The two phases of the command `i`. With BUSY = 0 it is being submitted: RANGE, then BOUNDS, then acceptance
(60_exceptions.md R116, R119). With BUSY = 1 it is in flight and the engine performs it: `effect`, then complete()
(R120), provided that the latched operands fit (`fits`), as acceptance has ensured. A CMD write while BUSY = 1 is
rejected before its word is decoded (`State.submit`), so it never comes here. -/
def State.command (s : State) (i : Instr) (inRange inBounds fits : Bool) (effect : State → State) :
    Host.Outcome State Fault Refusal :=
  if s.busy then
    if fits then .next (effect s).complete else .fault .engineOutsideBuffer
  else if !inRange then .next (s.reject .range)
  else if !inBounds then .next (s.reject .bounds)
  else .next (s.accept (s.latch i))

end Sys2Proof.Machine
end

