-- ==== Sys2Proof/Machine/BufferControl.lean ====
section
/-! DEFINITION. NOP and CLEAR (42_buffer_control.md). -/

namespace Sys2Proof.Machine

/-- NOP: no operand, no bounds test, no effect but completion (42_buffer_control.md R111). -/
def execNop (s : State) : Host.Outcome State Fault Refusal :=
  s.command .nop true true true id

/-- The effect of CLEAR: every byte of Region(DB) becomes 0x00 (42_buffer_control.md R109); unspecified bytes where a
concurrent access has struck (20_memory.md R62). -/
def State.clearBuffer (s : State) : State :=
  if s.raced then s.scrambleMem (region s.build s.lcmd.db)
  else { s with mem := s.mem.clear s.lcmd.db.toNat s.build.bufBytes }

/-- CLEAR (42_buffer_control.md R109). -/
def execClear (s : State) : Host.Outcome State Fault Refusal :=
  s.command .clear true (regionOk s.build s.dstBase) (regionOk s.build s.lcmd.db) State.clearBuffer

end Sys2Proof.Machine
end

