-- ==== Sys2Proof/Machine/PixelAccess.lean ====
section
/-! DEFINITION. GETPIX and SETPIX (40_pixel_access.md). The coordinates of a command in flight are LCMD.X and LCMD.Y;
the engine's turn hands them to the meaning as the operands (`Latched.instr`). -/

namespace Sys2Proof.Machine

/-- The effect of GETPIX: RESULT.PIXEL becomes the pixel of the source buffer (40_pixel_access.md R86); the byte read
is any byte where a concurrent access has struck (20_memory.md R62). -/
def State.readPixel (x y : Nat) (s : State) : State :=
  if s.raced then { s with pixel := extractBit (Config.freeByte s.draws) x, draws := s.draws + 1 }
  else { s with pixel := extractBit (s.mem.read (byteAddr s.build s.lcmd.sb.toNat x y)) x }

/-- GETPIX x, y (40_pixel_access.md R86). -/
def execGetpix (x y : Nat) (s : State) : Host.Outcome State Fault Refusal :=
  s.command (.getpix x y) (coordOk s.build x y) (regionOk s.build s.srcBase)
    (coordOk s.build x y && regionOk s.build s.lcmd.sb) (State.readPixel x y)

/-- The effect of SETPIX: a read-modify-write of one byte of the destination buffer (40_pixel_access.md R88); any byte
where a concurrent access has struck (20_memory.md R62). -/
def State.writePixel (x y : Nat) (v : Bool) (s : State) : State :=
  if s.raced then s.scrambleMem (pixelSpan s.build s.lcmd.db x y)
  else
    let a := byteAddr s.build s.lcmd.db.toNat x y
    { s with mem := s.mem.write a (putBit (s.mem.read a) x v) }

/-- SETPIX x, y, v (40_pixel_access.md R88). -/
def execSetpix (x y : Nat) (v : Bool) (s : State) : Host.Outcome State Fault Refusal :=
  s.command (.setpix x y v) (coordOk s.build x y) (regionOk s.build s.dstBase)
    (coordOk s.build x y && regionOk s.build s.lcmd.db) (State.writePixel x y v)

end Sys2Proof.Machine
end

