-- ==== Sys2Proof/Machine/Rotate.lean ====
section
/-! DEFINITION. ROTATE (41_rotate.md), stage by stage as its pseudocode has it (R91 to R98). -/

namespace Sys2Proof.Machine

/-- Stages 2 to 4 for one source coordinate: extract the pixel from the snapshot (41_rotate.md R94), map it (R95, R96),
and OR it into the destination buffer at `db` (R97). -/
def stampPixel (b : Build) (scr : Memory) (d : Bool) (db x y : Nat) (m : Memory) : Memory :=
  if extractBit (scr.readScr (y * b.stride + x / 8)) x then
    let p := rotMap b.n d x y
    let a := byteAddr b db p.1 p.2
    m.write a (putBit (m.read a) p.1 true)
  else m

/-- Stages 2 to 4 over all source coordinates, rows outermost (41_rotate.md R91). -/
def stampImage (b : Build) (scr : Memory) (d : Bool) (db : Nat) (m : Memory) : Memory :=
  forRange b.n (fun y m => forRange b.n (fun x m => stampPixel b scr d db x y m) m) m

/-- The effect of ROTATE: stage 0 snapshots the source into SCR (41_rotate.md R92), stage 1 clears the destination
(R93), stages 2 to 4 rotate (R94 to R97), and stage 5 invalidates (R98). Where a concurrent access has struck, SCR and
the destination are unspecified (20_memory.md R62). -/
def State.rotateBuffer (s : State) : State :=
  if s.raced then (s.scrambleScr.scrambleMem (region s.build s.lcmd.db)).invalidate
  else
    let b := s.build
    let scr := s.mem.snapshot s.lcmd.sb.toNat b.bufBytes s.scr
    let cleared := s.mem.clear s.lcmd.db.toNat b.bufBytes
    { s with scr := scr, mem := stampImage b scr s.lcmd.d s.lcmd.db.toNat cleared }.invalidate

/-- ROTATE (41_rotate.md R91). -/
def execRotate (s : State) : Host.Outcome State Fault Refusal :=
  s.command .rotate true (regionOk s.build s.srcBase && regionOk s.build s.dstBase)
    (regionOk s.build s.lcmd.sb && regionOk s.build s.lcmd.db) State.rotateBuffer

end Sys2Proof.Machine
end

