-- ==== Sys2Proof/Machine/Dispatch.lean ====
section
/-! DEFINITION. One arm per command: its meaning, which is its acceptance with BUSY = 0 and its perform step with
BUSY = 1 (Machine/Ops.lean, `State.command`). -/

namespace Sys2Proof.Machine

def exec (i : Instr) (s : State) : Host.Outcome State Fault Refusal :=
  match i with
  | .nop => Sys2Proof.Machine.execNop s
  | .rotate => Sys2Proof.Machine.execRotate s
  | .clear => Sys2Proof.Machine.execClear s
  | .getpix x y => Sys2Proof.Machine.execGetpix x y s
  | .setpix x y v => Sys2Proof.Machine.execSetpix x y v s

end Sys2Proof.Machine
end

