-- ==== Sys2Proof/Machine/Window.lean ====
section
/-! DEFINITION. The register window as the host sees it: reads and writes of a register (10_state.md section 3, R39,
R41) and the submission of a command by a CMD write (60_exceptions.md R116). -/

namespace Sys2Proof.Machine

/-- What a read of a register returns; no register changes on a read (10_state.md R24 to R39, R41). -/
def State.readReg (s : State) : Reg → Word
  | .id => 0x46425231#32
  | .param => BitVec.ofNat 16 s.build.stride ++ BitVec.ofNat 16 s.build.n
  | .memTop => BitVec.ofNat 32 (s.build.memBytes - 1)
  | .ctrl => s.ctrlWord
  | .srcBase => s.srcBase
  | .dstBase => s.dstBase
  | .cmd => 0x00000000#32
  | .status => s.statusWord
  | .result => s.resultWord
  | .reserved => 0x00000000#32

/-- submit(w) (60_exceptions.md R116): BUSY is tested before the word is decoded, then ILLEGAL, and the rest of the
procedure is the decoded command's acceptance (`exec` with BUSY = 0). -/
def State.submit (s : State) (w : Word) : Host.Outcome State Fault Refusal :=
  if s.busy then .next (s.reject .busy)
  else
    match decode w with
    | .error _ => .next (s.reject .illegal)
    | .ok i => exec i s

/-- A host write of one register (10_state.md R27 to R31, R39, R41). While rst is asserted a CMD write is ignored and
records nothing (70_reset_and_hazards.md R137); the registers are held at their reset values, so any other write is
ignored too (log 10: DEDUCED, unsafe). -/
def State.writeReg (s : State) (r : Reg) (v : Word) : Host.Outcome State Fault Refusal :=
  if s.rst then .next s
  else
    match r with
    | .id => .next s
    | .param => .next s
    | .memTop => .next s
    | .ctrl => .next (s.writeCtrl v)
    | .srcBase => .next { s with srcBase := v }
    | .dstBase => .next { s with dstBase := v }
    | .cmd => s.submit v
    | .status => .next (s.writeStatus v)
    | .result => .next s
    | .reserved => .next s

end Sys2Proof.Machine
end

