-- ==== Sys2Proof/Machine/Agents.lean ====
section
/-! DEFINITION. What each agent does with a turn: the host one operation of its program (30_encoding.md R79), the
engine the command in flight (10_state.md R45), and the reset pin an assertion or a release (70_reset_and_hazards.md
R137, R138). -/

namespace Sys2Proof.Machine

/-- The host's next operation, none at the end of its program (10_state.md R46). -/
def State.nextOp (s : State) : Option HostOp := s.prog[s.hostPc]?

/-- The host moves on to its next operation. -/
def State.advance (s : State) : State := { s with hostPc := s.hostPc + 1 }

/-- A result is bound to a name, in place of what the name held (30_encoding.md R79). -/
def State.bind (s : State) (name : Nat) (v : Word) : State :=
  { s with names := (name, v) :: s.names.filter fun p => p.1 != name }

/-- The number that stands for the name `s`, which the loop of `WAIT` binds (30_encoding.md R79; log 16). -/
def waitName : Nat := 0

/-- The value bound to a name, if any. -/
def State.nameValue (s : State) (name : Nat) : Option Word := s.names.lookup name

/-- The position of a label (30_encoding.md R79). -/
def State.labelPos (s : State) (l : Nat) : Option Nat := s.prog.findIdx? fun o => o == .label l

/-- A hazard is recorded: the set of fault records grows, and the command in flight has been struck (20_memory.md R62,
10_state.md R45). -/
def State.recordHazard (s : State) (r : FaultRecord) : State :=
  { s with faults := if r ∈ s.faults then s.faults else r :: s.faults, raced := true }

/-- A host write of the byte at `a` is a hazard: a command is in flight and `a` is in RD or WR (20_memory.md R62). -/
def State.writeHazard (s : State) (a : Word) : Bool :=
  s.busy && ((readSet s.build s.lcmd).has a.toNat || (writeSet s.build s.lcmd).has a.toNat)

/-- A host read of the byte at `a` is a hazard: a command is in flight and `a` is in WR (20_memory.md R62). -/
def State.readHazard (s : State) (a : Word) : Bool :=
  s.busy && (writeSet s.build s.lcmd).has a.toNat

/-- `MW addr, byte` (30_encoding.md R79): a direct write of one surface-memory byte (20_memory.md R47, R62). -/
def State.hostMemWrite (s : State) (a : Word) (v : Byte) : Host.Outcome State Fault Refusal :=
  if a.toNat < s.build.memBytes then
    let t := if s.writeHazard a then s.recordHazard (.concurrentAccess a true) else s
    .next { t with mem := t.mem.write a.toNat v }
  else .fault (.outsideSurfaceMemory a)

/-- `MR addr -> name` (30_encoding.md R79): a direct read of one surface-memory byte, any byte where it is a hazard
(20_memory.md R47, R62). -/
def State.hostMemRead (s : State) (a : Word) (name : Nat) : Host.Outcome State Fault Refusal :=
  if a.toNat < s.build.memBytes then
    if s.readHazard a then
      let t := s.recordHazard (.concurrentAccess a false)
      .next ({ t with draws := t.draws + 1 }.bind name ((Config.freeByte s.draws).setWidth 32))
    else .next (s.bind name ((s.mem.read a.toNat).setWidth 32))
  else .fault (.outsideSurfaceMemory a)

/-- One operation of the host program, the position moved on already but for `WAIT` and a taken branch (30_encoding.md
R79). A register access that is no aligned word sets the refusal flag (10_state.md R40, R45). -/
def State.hostOp (s : State) : HostOp → Host.Outcome State Fault Refusal
  | .regWrite off size v =>
    if wordAccess off size then s.advance.writeReg (regAt off) v
    else .next { s.advance with refused := true }
  | .regRead off size name =>
    if wordAccess off size then
      .next ({ s.advance with rdata := s.readReg (regAt off) }.bind name (s.readReg (regAt off)))
    else .next { s.advance with refused := true }
  | .cmd i => if i.wf then s.advance.writeReg .cmd (encode i) else .refused .badHostProgram
  | .memWrite a b => s.advance.hostMemWrite a b
  | .memRead a name => s.advance.hostMemRead a name
  | .wait =>
    let t := { s with rdata := s.readReg .status }.bind waitName (s.readReg .status)
    .next (if s.busy then t else t.advance)
  | .label _ => .next s.advance
  | .branchNZ name mask l =>
    match s.nameValue name, s.labelPos l with
    | some v, some k => .next (if v &&& mask = 0#32 then s.advance else { s with hostPc := k })
    | _, _ => .refused .badHostProgram

/-- The host's turn; nothing happens once its program has no next operation (60_exceptions.md R133). -/
def State.hostTurn (s : State) : Host.Outcome State Fault Refusal :=
  match s.nextOp with
  | none => .next s
  | some o => s.hostOp o

/-- The engine's turn: enabled exactly when BUSY = 1, it performs the command in LCMD in one step (10_state.md R45,
41_rotate.md R100). -/
def State.engineTurn (s : State) : Host.Outcome State Fault Refusal :=
  if s.busy then
    match s.lcmd.instr with
    | some i => exec i s
    | none => .fault .noLatchedCommand
  else .next s

/-- rst is asserted (70_reset_and_hazards.md R137, R138): every register takes its reset value; each byte that a
command in flight was writing becomes unspecified, as do SCR and LCMD; the other bytes of memory stay. -/
def State.assertReset (s : State) : State :=
  let t := if s.busy then s.scrambleMem (writeSet s.build s.lcmd) else s
  { t.scrambleScr.scrambleLcmd with
    dir := false
    irqEn := false
    srcBase := 0#32
    dstBase := 0#32
    busy := false
    done := false
    inval := false
    errv := false
    errcode := 0#4
    pixel := false
    invalO := false
    raced := false
    rst := true }

/-- The reset pin takes a level. -/
def State.resetTurn (s : State) (asserted : Bool) : State :=
  if asserted then s.assertReset else { s with rst := false }

end Sys2Proof.Machine
end

