-- ==== Sys2Proof/Machine/Step.lean ====
section
/-! DEFINITION. One step of the block and its agents, and where the step finds its next command. -/

namespace Sys2Proof.Machine

/-- Who moves: the first of `turns`; when none is listed, the engine while a command is in flight, and the host
otherwise (log 5: DESIGN CHOICE; every order the spec admits is a value of `turns`). -/
def State.turn (s : State) : Turn :=
  match s.turns with
  | t :: _ => t
  | [] => if s.busy then .engine else .host

/-- A step begins: the turn is taken from the list, and the last step's inval_o pulse is over (60_exceptions.md
R123). -/
def State.begin (s : State) : State := { s with turns := s.turns.tail, invalO := false }

/-- One step (10_state.md R45): a run that is refused stays so, a build that is none is refused (00_scope.md R11), and
otherwise the agent whose turn it is moves. -/
def step (s : State) : Host.Outcome State Fault Refusal :=
  if s.refused then .refused .subwordRegisterAccess
  else if !s.build.valid then .refused .invalidConfiguration
  else
    match s.turn with
    | .host => s.begin.hostTurn
    | .engine => s.begin.engineTurn
    | .reset level => .next (s.begin.resetTurn level)

/-- The command word of `nbits` bits `w` where the next step takes its command from: a write of that word to CMD is
the host's next operation (10_state.md R30), the host has the turn, and the block is idle and out of reset, so that it
takes a command (log 6). -/
def State.withFetchWord (s : State) (nbits w : Nat) : State :=
  { s with
    prog := s.prog.take s.hostPc ++ .regWrite 0x18#6 .word (BitVec.ofNat 32 (w % 2 ^ nbits)) :: s.prog.drop s.hostPc
    hostPc := (s.prog.take s.hostPc).length
    turns := .host :: s.turns
    busy := false
    rst := false }

end Sys2Proof.Machine
end

