-- ==== Sys2Proof/Machine/Assembler.lean ====
section
/-! DEFINITION. The assembler of 30_encoding.md R77 and the pseudo-commands of R78: one line of text, as a list of
characters, to a command word. They are the host's language, not the block's (R79). -/

namespace Sys2Proof.Machine

/-- A blank between the parts of a line. -/
def isBlank (c : Char) : Bool := c == ' ' || c == '\t'

/-- A list of characters without the blanks at its two ends. -/
def trimBlanks (cs : List Char) : List Char := ((cs.dropWhile isBlank).reverse.dropWhile isBlank).reverse

/-- The value of a digit in base 10 or 16, if it is one. -/
def digitValue (hex : Bool) (c : Char) : Option Nat :=
  if '0' ≤ c ∧ c ≤ '9' then some (c.toNat - 48)
  else if hex = true ∧ 'a' ≤ c ∧ c ≤ 'f' then some (c.toNat - 87)
  else if hex = true ∧ 'A' ≤ c ∧ c ≤ 'F' then some (c.toNat - 55)
  else none

/-- The number that the digits spell after `acc`. -/
def digitsFrom (hex : Bool) (acc : Nat) : List Char → Option Nat
  | [] => some acc
  | c :: cs =>
    match digitValue hex c with
    | some d => digitsFrom hex (acc * (if hex then 16 else 10) + d) cs
    | none => none

/-- A decimal or `0x` hexadecimal integer (30_encoding.md R77). -/
def operandValue (cs : List Char) : Option Nat :=
  match cs with
  | [] => none
  | '0' :: 'x' :: [] => none
  | '0' :: 'x' :: ds => digitsFrom true 0 ds
  | ds => digitsFrom false 0 ds

/-- The pieces of a list of characters between commas. -/
def commaPieces : List Char → List (List Char)
  | [] => [[]]
  | c :: cs =>
    match commaPieces cs with
    | [] => [[c]]
    | p :: ps => if c == ',' then [] :: p :: ps else (c :: p) :: ps

/-- The operands of a line, none where a piece is no integer. -/
def operandList (cs : List Char) : Option (List Nat) :=
  if (trimBlanks cs).isEmpty then some []
  else (commaPieces cs).mapM fun p => operandValue (trimBlanks p)

/-- The command a mnemonic or pseudo-command names with its operands (30_encoding.md R77, R78). -/
def namedCommand (mnemonic : List Char) (ops : List Nat) : Option Instr :=
  if mnemonic = ['N', 'O', 'P'] then
    match ops with
    | [] => some .nop
    | _ => none
  else if mnemonic = ['R', 'O', 'T', 'A', 'T', 'E'] then
    match ops with
    | [] => some .rotate
    | _ => none
  else if mnemonic = ['C', 'L', 'E', 'A', 'R'] then
    match ops with
    | [] => some .clear
    | _ => none
  else if mnemonic = ['G', 'E', 'T', 'P', 'I', 'X'] then
    match ops with
    | [x, y] => some (.getpix x y)
    | _ => none
  else if mnemonic = ['S', 'E', 'T', 'P', 'I', 'X'] then
    match ops with
    | [x, y, 0] => some (.setpix x y false)
    | [x, y, 1] => some (.setpix x y true)
    | _ => none
  else if mnemonic = ['P', 'S', 'E', 'T'] then
    match ops with
    | [x, y] => some (.setpix x y true)
    | _ => none
  else if mnemonic = ['P', 'C', 'L', 'R'] then
    match ops with
    | [x, y] => some (.setpix x y false)
    | _ => none
  else none

/-- A line without its comment and the blanks around the rest (30_encoding.md R77). -/
def lineCode (line : List Char) : List Char := trimBlanks (line.takeWhile fun c => c != ';')

/-- The mnemonic of a line. -/
def lineMnemonic (line : List Char) : List Char := (lineCode line).takeWhile fun c => !isBlank c

/-- The operands of a line, in the order written. -/
def lineOperands (line : List Char) : Option (List Nat) := operandList ((lineCode line).dropWhile fun c => !isBlank c)

/-- The command of one line; an operand outside its field width is an error, never truncated (30_encoding.md R77). -/
def assembleCommand (line : List Char) : Option Instr :=
  match lineOperands line with
  | none => none
  | some ops =>
    match namedCommand (lineMnemonic line) ops with
    | none => none
    | some i => if i.wf then some i else none

/-- The word of one line (30_encoding.md R77). -/
def assembleLine (line : List Char) : Option Word := (assembleCommand line).map encode

/-- `ROTCW` (`ccw` false) and `ROTCCW` (`ccw` true): a write of CTRL with DIR, keeping IRQ_EN as it stands, then
ROTATE (30_encoding.md R78). -/
def rotateProgram (ccw irqEn : Bool) : List HostOp :=
  [ .regWrite 0x0C#6 .word (ctrlBits irqEn ccw), .cmd .rotate ]

end Sys2Proof.Machine
end

