-- ==== Sys2Proof/Safety.lean ====
section
/-! DEFINITION. The terms the claims use: the end of a run (10_state.md R46), the invariant of the machine, when a
command in flight is ready to be performed, pixel content and padding (00_scope.md R17 to R19), and the closed form of
ROTATE (41_rotate.md R99). -/

namespace Sys2Proof.Machine

/-- The end of a run (10_state.md R46). -/
def State.final (s : State) : Bool :=
  s.nextOp == none && !s.busy && s.faults == [] && !s.refused

/-- The latched operands passed the tests of 60_exceptions.md R116 and R118 for the command they are of. -/
def Latched.fits (b : Build) (l : Latched) : Bool :=
  match l.instr with
  | none => false
  | some .nop => true
  | some .rotate => regionOk b l.sb && regionOk b l.db
  | some .clear => regionOk b l.db
  | some (.getpix x y) => coordOk b x y && regionOk b l.sb
  | some (.setpix x y _) => coordOk b x y && regionOk b l.db

/-- Every register at its reset value (70_reset_and_hazards.md R137). -/
def State.registersReset (s : State) : Bool :=
  !s.dir && !s.irqEn && s.srcBase == 0#32 && s.dstBase == 0#32 && !s.busy && !s.done && !s.inval && !s.errv &&
    s.errcode == 0#4 && !s.pixel

/-- What every step keeps. -/
structure State.Inv (s : State) : Prop where
  /-- The build is one (00_scope.md R11). -/
  build_valid : s.build.valid = true
  /-- Surface memory keeps its canonical form. -/
  mem_wf : s.mem.wf = true
  /-- Surface memory has MEM_BYTES bytes (20_memory.md R47). -/
  mem_below : s.mem.below s.build.memBytes = true
  /-- SCR keeps its canonical form. -/
  scr_wf : s.scr.wf = true
  /-- SCR has BUFBYTES bytes (10_state.md R37). -/
  scr_below : s.scr.below s.build.bufBytes = true
  /-- ERRCODE is 0 to 4 (10_state.md R35). -/
  errcode_legal : s.errcode.toNat ≤ 4
  /-- ERRCODE is 0 exactly while ERRV = 0 (10_state.md R35, 60_exceptions.md R115). -/
  errcode_errv : s.errcode = 0#4 ↔ s.errv = false
  /-- DONE is 0 while a command is in flight (10_state.md R33). -/
  busy_done : s.busy = true → s.done = false
  /-- A command in flight fits its buffers (60_exceptions.md R116). -/
  busy_fits : s.busy = true → s.lcmd.fits s.build = true
  /-- Only a command in flight can have been struck by a hazard (20_memory.md R62). -/
  raced_busy : s.raced = true → s.busy = true
  /-- Reset holds the registers at their reset values (70_reset_and_hazards.md R137). -/
  rst_registers : s.rst = true → s.registersReset = true
  /-- The inval_o pulse comes with INVAL, in the step of a completion (41_rotate.md R98). -/
  pulse_inval : s.invalO = true → s.inval = true ∧ s.done = true ∧ s.busy = false

/-- A command is in flight that no concurrent access has struck (20_memory.md R62). -/
def State.quiet (s : State) : Bool := s.busy && !s.raced

/-- Pix(base, x, y) (00_scope.md R17). -/
def pix (b : Build) (m : Memory) (base : Word) (x y : Nat) : Bool :=
  extractBit (m.read (byteAddr b base.toNat x y)) x

/-- Bit j of byte i of the buffer at `base`. -/
def bufBit (m : Memory) (base : Word) (i j : Nat) : Bool := (m.read (base.toNat + i)).getLsbD j

/-- The column that bit j of byte i of a buffer stands for, padding columns included (41_rotate.md R99). -/
def bitColumn (b : Build) (i j : Nat) : Nat := 8 * (i % b.stride) + (7 - j)

/-- Bit j of byte i of a buffer holds no pixel (00_scope.md R18). -/
def isPadding (b : Build) (i j : Nat) : Bool := b.n ≤ bitColumn b i j

/-- The closed form of 41_rotate.md R99: bit j of byte i of the destination, from the source at `sb` of `m0`. -/
def rotatedBit (b : Build) (m0 : Memory) (sb : Word) (d : Bool) (i j : Nat) : Bool :=
  let ny := i / b.stride
  let nx := bitColumn b i j
  if b.n ≤ nx then false
  else if d then pix b m0 sb (b.n - 1 - ny) nx
  else pix b m0 sb ny (b.n - 1 - nx)

/-- ROTATE is in flight, struck by no concurrent access, and its two buffers are in bounds (60_exceptions.md R116). -/
def State.rotateReady (s : State) : Bool :=
  s.build.valid && s.quiet && regionOk s.build s.lcmd.sb && regionOk s.build s.lcmd.db

/-- The run is not refused and the build is one: the agent whose turn it is moves (10_state.md R45, 00_scope.md R11). -/
def State.runs (s : State) : Bool := !s.refused && s.build.valid

/-- The step from `s` is the engine performing the command of operation `op` (10_state.md R45). -/
def State.performs (s : State) (op : BitVec 4) : Prop :=
  s.turn = .engine ∧ s.busy = true ∧ s.lcmd.op = op

/-- The step from `s` is a host write of `v` to the register at `off` that the block takes (10_state.md R40). -/
def State.hostWrites (s : State) (off : BitVec 6) (v : Word) : Prop :=
  s.turn = .host ∧ s.rst = false ∧ s.nextOp = some (.regWrite off .word v)

/-- The step from `s` is a host write of the command word `w` to CMD, spelled `W CMD, w` or `C <command>`
(30_encoding.md R79), that the block takes (70_reset_and_hazards.md R137). -/
def State.hostCommands (s : State) (w : Word) : Prop :=
  s.turn = .host ∧ s.rst = false ∧
    (s.nextOp = some (.regWrite 0x18#6 .word w) ∨ ∃ i : Instr, i.wf = true ∧ s.nextOp = some (.cmd i) ∧ w = encode i)

/-- `s` as a host operation finds it: the step has begun and the host has moved on to its next operation. -/
def State.afterOp (s : State) : State :=
  { s with turns := s.turns.tail, invalO := false, hostPc := s.hostPc + 1 }

/-- The step from `s` is the pin rst being asserted (70_reset_and_hazards.md R137). -/
def State.resets (s : State) : Prop := s.turn = .reset true

/-- ERRV and ERRCODE after a rejection with code `c` (10_state.md R35), nothing else changed (60_exceptions.md R116). -/
def recorded (c : BitVec 4) (s : State) : State :=
  { s with errv := true, errcode := if s.errv then s.errcode else c }

/-- A coordinate of the command is not below N (60_exceptions.md R116, 30_encoding.md R70). -/
def outOfRange (n : Nat) : Instr → Prop
  | .nop => False
  | .rotate => False
  | .clear => False
  | .getpix x y => n ≤ x ∨ n ≤ y
  | .setpix x y _ => n ≤ x ∨ n ≤ y

/-- The buffers the command uses lie in surface memory (60_exceptions.md R118). -/
def buffersInBounds (b : Build) (src dst : Word) : Instr → Prop
  | .nop => True
  | .rotate => src.toNat + b.bufBytes ≤ b.memBytes ∧ dst.toNat + b.bufBytes ≤ b.memBytes
  | .clear => dst.toNat + b.bufBytes ≤ b.memBytes
  | .getpix _ _ => src.toNat + b.bufBytes ≤ b.memBytes
  | .setpix _ _ _ => dst.toNat + b.bufBytes ≤ b.memBytes

/-- The state after the acceptance of `i`: the operands are latched from the command word and the registers, BUSY is 1
and DONE is 0 (60_exceptions.md R116). -/
def accepted (i : Instr) (s : State) : State :=
  { s with
    lcmd :=
      { op := i.op, sb := s.srcBase, db := s.dstBase, d := s.dir, x := BitVec.ofNat 8 i.xOperand,
        y := BitVec.ofNat 8 i.yOperand, v := i.vOperand }
    busy := true
    done := false
    raced := false }

/-- A completed ROTATE: `t` is what its perform step makes of `s`. -/
def rotatesTo (s t : State) : Prop := s.rotateReady = true ∧ exec .rotate s = .next t

/-- `s` is a later state of the same block in which a command in flight takes the destination buffer of `t`, its bytes
unchanged since, as its source. -/
def takesDestination (t s : State) : Prop :=
  s.build = t.build ∧
    ∀ i, i < t.build.bufBytes → s.mem.read (s.lcmd.sb.toNat + i) = t.mem.read (t.lcmd.db.toNat + i)

/-- The number of foreground pixels of the buffer at `base` (41_rotate.md R103). -/
def pixelCount (b : Build) (m : Memory) (base : Word) : Nat :=
  ((Finset.range b.n ×ˢ Finset.range b.n).filter fun p => pix b m base p.1 p.2 = true).card

/-- The number of 1 bits in the BUFBYTES bytes from `base` on (41_rotate.md R103). -/
def bitCount (b : Build) (m : Memory) (base : Word) : Nat :=
  ((Finset.range b.bufBytes ×ˢ Finset.range 8).filter fun p => bufBit m base p.1 p.2 = true).card

/-- The byte `k` of a row whose every pixel is foreground and whose padding is 0 (41_rotate.md R106). -/
def fullRowByte (b : Build) (k : Nat) : Byte :=
  if k + 1 < b.minStride then 0xFF#8
  else if k + 1 = b.minStride then (if b.n % 8 = 0 then 0xFF#8 else 0xFF#8 <<< (8 - b.n % 8))
  else 0x00#8

/-- The word that a mnemonic or pseudo-command with its operands, in the order written, assembles to:
`(y << 24) | (x << 16) | (v << 8) | OP` (30_encoding.md R69, R77, R78). -/
inductive Spells : List Char → List Nat → Nat → Prop where
  | nop : Spells ['N', 'O', 'P'] [] 0
  | rotate : Spells ['R', 'O', 'T', 'A', 'T', 'E'] [] 1
  | clear : Spells ['C', 'L', 'E', 'A', 'R'] [] 2
  | getpix (x y : Nat) (hx : x ≤ 255) (hy : y ≤ 255) :
    Spells ['G', 'E', 'T', 'P', 'I', 'X'] [x, y] (y <<< 24 ||| x <<< 16 ||| 3)
  | setpix (x y v : Nat) (hx : x ≤ 255) (hy : y ≤ 255) (hv : v ≤ 1) :
    Spells ['S', 'E', 'T', 'P', 'I', 'X'] [x, y, v] (y <<< 24 ||| x <<< 16 ||| v <<< 8 ||| 4)
  | pset (x y : Nat) (hx : x ≤ 255) (hy : y ≤ 255) :
    Spells ['P', 'S', 'E', 'T'] [x, y] (y <<< 24 ||| x <<< 16 ||| 0x104)
  | pclr (x y : Nat) (hx : x ≤ 255) (hy : y ≤ 255) :
    Spells ['P', 'C', 'L', 'R'] [x, y] (y <<< 24 ||| x <<< 16 ||| 0x004)

/-- The text `t` is a decimal or a `0x` hexadecimal integer for `n` (30_encoding.md R77). -/
def SpellsNumber (n : Nat) (t : List Char) : Prop := t = Nat.toDigits 10 n ∨ t = '0' :: 'x' :: Nat.toDigits 16 n

/-- Operand texts separated by commas. -/
def operandText : List (List Char) → List Char
  | [] => []
  | [t] => t
  | t :: ts => t ++ ',' :: ' ' :: operandText ts

/-- The text of a line: a mnemonic, a blank, and the operands (30_encoding.md R77). -/
def lineText (mnemonic : List Char) (operands : List (List Char)) : List Char :=
  mnemonic ++ ' ' :: operandText operands

/-- What a read of the register at byte offset `off` returns, each register as a number (10_state.md section 3). -/
def registerValue (s : State) (off : Nat) : Word :=
  if off = 0x00 then 0x46425231#32
  else if off = 0x04 then BitVec.ofNat 32 (65536 * s.build.stride + s.build.n)
  else if off = 0x08 then BitVec.ofNat 32 (s.build.memBytes - 1)
  else if off = 0x0C then BitVec.ofNat 32 (2 * s.irqEn.toNat + s.dir.toNat)
  else if off = 0x10 then s.srcBase
  else if off = 0x14 then s.dstBase
  else if off = 0x1C then
    BitVec.ofNat 32 (16 * s.errcode.toNat + 8 * s.errv.toNat + 4 * s.inval.toNat + 2 * s.done.toNat + s.busy.toNat)
  else if off = 0x20 then BitVec.ofNat 32 s.pixel.toNat
  else 0x00000000#32

/-- What a write of `v` to the register at byte offset `off`, not CMD, leaves (10_state.md R27 to R31, R39, R41). -/
def registerWritten (s : State) (off : Nat) (v : Word) : State :=
  if off = 0x0C then { s with dir := v.getLsbD 0, irqEn := v.getLsbD 1 }
  else if off = 0x10 then { s with srcBase := v }
  else if off = 0x14 then { s with dstBase := v }
  else if off = 0x1C then
    { s with
      done := if v.getLsbD 1 then false else s.done
      inval := if v.getLsbD 2 then false else s.inval
      errv := if v.getLsbD 3 then false else s.errv
      errcode := if v.getLsbD 3 then 0#4 else s.errcode }
  else s

end Sys2Proof.Machine
end

