-- ==== Sys2Proof/Certificates/Slice0/Obligations.lean ====
section
/-! DEFINITION. The statements for the provers, from the numbered rules of spec/: encoding, the datapath units,
memory, the register window, submission, the perform step of each command, interrupts, reset, the host, the step, and
the headline results about ROTATE and the invariant. None rests on the value of a free value or of a field that
INVENTORY.md marks DESIGN CHOICE, except where its docstring says so. `exec i s` is the submission of `i` where BUSY =
0 and its perform step where BUSY = 1 (log 11). "The spec infers" marks what spec/ itself marks as derived from other
rules. -/

open Sys2Proof Sys2Proof.Machine

/-! Encoding (30_encoding.md). -/

/-- Every well-formed command is decoded from the word that 30_encoding.md R68 and R77 give it. -/
def Obligations.DecodeInvertsEncode : Prop :=
  ∀ i : Instr, i.wf = true → decode (encode i) = .ok i

/-- A legal word is the word of the one command it decodes as, whose operands fit their fields (30_encoding.md R70,
R77). -/
def Obligations.EncodeInvertsDecode : Prop :=
  ∀ (w : Word) (i : Instr), decode w = .ok i → i.wf = true ∧ encode i = w

/-- 30_encoding.md R71: the legal encodings are exactly its five match and mask pairs, the free fields are the
operands, and no word matches two rows. -/
def Obligations.LegalEncodingsAreTheTable : Prop :=
  (∀ w : Word, decode w = .ok .nop ↔ w &&& 0xFFFFFFFF#32 = 0x00000000#32) ∧
  (∀ w : Word, decode w = .ok .rotate ↔ w &&& 0xFFFFFFFF#32 = 0x00000001#32) ∧
  (∀ w : Word, decode w = .ok .clear ↔ w &&& 0xFFFFFFFF#32 = 0x00000002#32) ∧
  (∀ (w : Word) (x y : Nat), decode w = .ok (.getpix x y) ↔
    w &&& 0x0000FFFF#32 = 0x00000003#32 ∧ x = w.toNat / 65536 % 256 ∧ y = w.toNat / 16777216) ∧
  (∀ (w : Word) (x y : Nat) (v : Bool), decode w = .ok (.setpix x y v) ↔
    w &&& 0x0000FEFF#32 = 0x00000004#32 ∧ x = w.toNat / 65536 % 256 ∧ y = w.toNat / 16777216 ∧
      v = decide (w.toNat / 256 % 2 = 1)) ∧
  opRows.Pairwise fun r r' => ∀ w : Word, ¬(r.matchesWord w = true ∧ r'.matchesWord w = true)

/-- 30_encoding.md R73: a word with OP 0x5 to 0xF decodes as ILLEGAL, and a CMD write of it to the idle block is
rejected with code 1 and has no other effect. -/
def Obligations.ReservedOpIsRejected : Prop :=
  ∀ w : Word, 5 ≤ w.toNat % 16 →
    (∃ e, decode w = .error e) ∧
    ∀ s : State, s.runs = true → s.busy = false → s.hostCommands w → step s = .next (recorded 1#4 s.afterOp)

/-- 30_encoding.md R74: a word with OP 0x0 to 0x4 and a 1 in a bit that its row's mask covers and its match does not
decodes as ILLEGAL and is rejected like a reserved OP. -/
def Obligations.MustBeZeroBitIsRejected : Prop :=
  ∀ (r : OpRow) (w : Word), r ∈ opRows → opField w = r.op → w &&& r.mask ≠ r.pattern →
    (∃ e, decode w = .error e) ∧
    ∀ s : State, s.runs = true → s.busy = false → s.hostCommands w → step s = .next (recorded 1#4 s.afterOp)

/-- The words of 30_encoding.md R80, which the spec infers from R71 and R77, decode to the commands it lists. -/
def Obligations.ExampleWordsDecode : Prop :=
  decode 0x00000000#32 = .ok .nop ∧ decode 0x00000001#32 = .ok .rotate ∧ decode 0x00000002#32 = .ok .clear ∧
  decode 0x00000003#32 = .ok (.getpix 0 0) ∧ decode 0x00070003#32 = .ok (.getpix 7 0) ∧
  decode 0x05030003#32 = .ok (.getpix 3 5) ∧ decode 0x05030104#32 = .ok (.setpix 3 5 true) ∧
  decode 0x05030004#32 = .ok (.setpix 3 5 false) ∧ decode 0xFFFF0104#32 = .ok (.setpix 255 255 true) ∧
  decode 0x00000104#32 = .ok (.setpix 0 0 true)

/-- The assembler of 30_encoding.md R77 and the pseudo-commands PSET and PCLR of R78, in the reading of log 23. A line
assembles exactly when its mnemonic and its operands, in the order written, spell a command, and then to the word `(y
<< 24) | (x << 16) | (v << 8) | OP` of those operands, which the block decodes as that command, its operands fitting
their fields. The text of a mnemonic and of operands in decimal or `0x` hexadecimal, separated by commas, is read as
that mnemonic and those operands and assembles to their word, with a comment after `;` or without. -/
def Obligations.AssembledLineDecodes : Prop :=
  (∀ (line : List Char) (w : Word), assembleLine line = some w →
    (∃ i : Instr, assembleCommand line = some i ∧ i.wf = true ∧ w = encode i ∧ decode w = .ok i) ∧
    ∃ ops, lineOperands line = some ops ∧ Spells (lineMnemonic line) ops w.toNat) ∧
  (∀ (line : List Char) (ops : List Nat) (n : Nat), lineOperands line = some ops → Spells (lineMnemonic line) ops n →
    assembleLine line = some (BitVec.ofNat 32 n)) ∧
  ∀ (mnemonic : List Char) (ops : List Nat) (n : Nat) (texts : List (List Char)),
    Spells mnemonic ops n → List.Forall₂ SpellsNumber ops texts →
    lineMnemonic (lineText mnemonic texts) = mnemonic ∧ lineOperands (lineText mnemonic texts) = some ops ∧
    assembleLine (lineText mnemonic texts) = some (BitVec.ofNat 32 n) ∧
    ∀ comment : List Char, assembleLine (lineText mnemonic texts ++ ';' :: comment) = some (BitVec.ofNat 32 n)

/-! The derived parameters and the datapath units (00_scope.md section 4, 40_pixel_access.md section 1). -/

/-- What 00_scope.md R9 and 10_state.md R25 say of the derived parameters of a valid build: STRIDE is a multiple of
STRIDE_ALIGN, the least one that is at least ceil(N/8), and N and STRIDE fit the fields of PARAM. -/
def Obligations.StrideIsTheAlignedMinimum : Prop :=
  ∀ b : Build, b.valid = true →
    b.strideAlign ∣ b.stride ∧ b.n ≤ 8 * b.stride ∧ (∀ k, b.strideAlign ∣ k → b.n ≤ 8 * k → b.stride ≤ k) ∧
      b.stride ≤ 64 ∧ b.n ≤ 256 ∧ b.bufBytes = b.stride * b.n

/-- 40_pixel_access.md R81 and R82: the extractor reads bit 7 - (x mod 8), and the writer changes that bit alone. -/
def Obligations.BitUnitsActOnOneBit : Prop :=
  ∀ (b : Byte) (x : Nat),
    extractBit b x = b.getLsbD (7 - x % 8) ∧
    ∀ (v : Bool) (j : Nat), j < 8 → (putBit b x v).getLsbD j = if j = 7 - x % 8 then v else b.getLsbD j

/-- The four laws of the two units that the spec infers from 40_pixel_access.md R81 and R82 (R84: "Laws of the two
units. These are derived"). -/
def Obligations.BitUnitLaws : Prop :=
  ∀ (b : Byte) (x : Nat) (v : Bool),
    extractBit (putBit b x v) x = v ∧
    (∀ x', x' / 8 = x / 8 → x' ≠ x → extractBit (putBit b x v) x' = extractBit b x') ∧
    putBit (putBit b x v) x v = putBit b x v ∧
    putBit b x (extractBit b x) = b

/-- The counter-clockwise map is (y, N-1-x) and the two maps are each other's inverse (41_rotate.md R96); for each D
the map is a bijection of [0, N) x [0, N) onto itself (the spec infers this in R101 from R95 and R96). -/
def Obligations.RotationMapsAreInverseBijections : Prop :=
  (∀ n x y : Nat, x < n → y < n →
    rotMap n true x y = (y, n - 1 - x) ∧
    ∀ d : Bool, rotMap n (!d) (rotMap n d x y).1 (rotMap n d x y).2 = (x, y)) ∧
  ∀ (n : Nat) (d : Bool),
    (∀ x y, x < n → y < n → (rotMap n d x y).1 < n ∧ (rotMap n d x y).2 < n) ∧
    (∀ x y x' y', x < n → y < n → x' < n → y' < n → rotMap n d x y = rotMap n d x' y' → x = x' ∧ y = y') ∧
    ∀ nx ny, nx < n → ny < n → ∃ x y, x < n ∧ y < n ∧ rotMap n d x y = (nx, ny)

/-! Memory (20_memory.md). -/

/-- The model's own form of memory (log 2): two canonical memories with the same written bytes are one list, so that
equal memories are equal data. -/
def Obligations.CanonicalMemoryIsUnique : Prop :=
  ∀ m m' : Memory, m.wf = true → m'.wf = true → (∀ a, m.entry a = m'.entry a) → m = m'

/-! The register window (10_state.md). -/

/-- Every register reads as 10_state.md R24 to R39 say, reserved fields and offsets as 0, and the read has no effect
but on the port reg_rdata and the host's name. -/
def Obligations.RegisterReadReturnsItsValue : Prop :=
  ∀ (s : State) (off : BitVec 6) (name : Nat), s.runs = true → s.turn = .host → off.toNat % 4 = 0 →
    s.nextOp = some (.regRead off .word name) →
    ∃ t, step s = .next t ∧ t = { s.afterOp with rdata := registerValue s off.toNat, names := t.names } ∧
      t.nameValue name = some (registerValue s off.toNat) ∧
      ∀ k, k ≠ name → t.nameValue k = s.nameValue k

/-- A write of a register other than CMD does what 10_state.md R27 to R29, R31, R39 and R41 say, and nothing else:
CTRL, SRC_BASE and DST_BASE take the value, STATUS clears what a 1 is written to, and the others ignore it. It is the
same while a command is in flight (70_reset_and_hazards.md R147). -/
def Obligations.RegisterWriteTakesEffect : Prop :=
  ∀ (s : State) (off : BitVec 6) (v : Word), s.runs = true → s.hostWrites off v → off.toNat % 4 = 0 →
    off ≠ 0x18#6 → step s = .next (registerWritten s.afterOp off.toNat v)

/-- A register access that is no aligned word is refused for the whole run (10_state.md R40, R45; 60_exceptions.md
R134): the refusal flag rises, no register changes, and the run is not final; that every later step is refused is the
model's choice (log 9). -/
def Obligations.SubwordAccessIsRefused : Prop :=
  (∀ (s : State) (off : BitVec 6) (size : AccessSize) (o : HostOp), s.runs = true → s.turn = .host →
    (off.toNat % 4 ≠ 0 ∨ size ≠ .word) →
    ((∃ v, o = .regWrite off size v) ∨ ∃ name, o = .regRead off size name) → s.nextOp = some o →
    ∃ t, step s = .next t ∧ t = { s.afterOp with refused := true } ∧ t.final = false) ∧
  ∀ s : State, s.refused = true → step s = .refused .subwordRegisterAccess

/-- 10_state.md R33: DONE rises in a completion only and in every completion, falls only when the host writes 1 to it,
when a command is accepted or at reset, and is 0 after an acceptance. -/
def Obligations.DoneFollowsCompletion : Prop :=
  ∀ s t : State, step s = .next t →
    (s.done = false → t.done = true → s.turn = .engine ∧ s.busy = true) ∧
    (s.turn = .engine → s.busy = true → t.done = true) ∧
    (s.busy = false → t.busy = true → t.done = false) ∧
    (s.done = true → t.done = false →
      (∃ v, s.hostWrites 0x1C#6 v ∧ v.getLsbD 1 = true) ∨ (s.busy = false ∧ t.busy = true) ∨ s.resets)

/-- 10_state.md R34: INVAL rises in the completion of ROTATE only and in every one, and falls only when the host
writes 1 to it or at reset. -/
def Obligations.InvalFollowsRotate : Prop :=
  ∀ s t : State, step s = .next t →
    (s.performs 0x1#4 → t.inval = true) ∧
    (s.inval = false → t.inval = true → s.performs 0x1#4) ∧
    (s.inval = true → t.inval = false → (∃ v, s.hostWrites 0x1C#6 v ∧ v.getLsbD 2 = true) ∨ s.resets)

/-- ERRV rises only in a CMD write that is rejected, with a code of 1 to 4; while ERRV stays 1 the first code is kept;
ERRV falls only when the host writes 1 to it or at reset, and ERRCODE is 0 whenever ERRV = 0 (10_state.md R31, R35;
60_exceptions.md R126). -/
def Obligations.ErrorRecordKeepsTheFirst : Prop :=
  ∀ s t : State, s.Inv → step s = .next t →
    (s.errv = false → t.errv = true →
      (∃ w, s.hostCommands w) ∧ 1 ≤ t.errcode.toNat ∧ t.errcode.toNat ≤ 4 ∧ t.lcmd = s.lcmd ∧ t.busy = s.busy) ∧
    (s.errv = true → t.errv = true → t.errcode = s.errcode) ∧
    (s.errv = true → t.errv = false → (∃ v, s.hostWrites 0x1C#6 v ∧ v.getLsbD 3 = true) ∨ s.resets) ∧
    (t.errv = false → t.errcode = 0#4)

/-- RESULT.PIXEL changes only in the completion of GETPIX, in which BUSY falls, or at reset (10_state.md R36). -/
def Obligations.ResultChangesOnlyByGetpix : Prop :=
  ∀ s t : State, step s = .next t → t.pixel ≠ s.pixel →
    (s.performs 0x3#4 ∧ t.busy = false) ∨ s.resets

/-- 10_state.md R32: BUSY rises only by the acceptance of a legal command and falls only by the engine's perform step
or at reset; and while it stays 1 the latched command does not change (R38). -/
def Obligations.BusySpansTheCommand : Prop :=
  ∀ s t : State, step s = .next t →
    (s.busy = false → t.busy = true →
      ∃ w i, s.hostCommands w ∧ decode w = .ok i ∧ ¬outOfRange s.build.n i ∧
        buffersInBounds s.build s.srcBase s.dstBase i ∧ t = accepted i s.afterOp) ∧
    (s.busy = true → t.busy = false → s.turn = .engine ∨ s.resets) ∧
    (s.busy = true → t.busy = true → t.lcmd = s.lcmd)

/-! Submission (60_exceptions.md). -/

/-- 60_exceptions.md R116, with the in-bounds test of R118 and the priority of R119: a CMD write is rejected with the
first of BUSY, ILLEGAL, RANGE and BOUNDS that applies, nothing but ERRV and ERRCODE changing, or accepted. -/
def Obligations.SubmissionFollowsTheProcedure : Prop :=
  ∀ (s : State) (w : Word), s.runs = true → s.hostCommands w →
    (s.busy = true → step s = .next (recorded 2#4 s.afterOp)) ∧
    (s.busy = false → (∀ i, decode w ≠ .ok i) → step s = .next (recorded 1#4 s.afterOp)) ∧
    ∀ i, s.busy = false → decode w = .ok i →
      (outOfRange s.build.n i → step s = .next (recorded 3#4 s.afterOp)) ∧
      (¬outOfRange s.build.n i → ¬buffersInBounds s.build s.srcBase s.dstBase i →
        step s = .next (recorded 4#4 s.afterOp)) ∧
      (¬outOfRange s.build.n i → buffersInBounds s.build s.srcBase s.dstBase i →
        step s = .next (accepted i s.afterOp))

/-- 60_exceptions.md R117: a CMD write while BUSY = 1 is rejected with BUSY, whatever the word is, and the engine then
makes of the command in flight what it would have made of it, the error record apart. -/
def Obligations.BusyBlockRejectsEveryWord : Prop :=
  ∀ (s t : State) (w : Word), s.runs = true → s.busy = true → s.hostCommands w → step s = .next t →
    t = recorded 2#4 s.afterOp ∧
    ∀ i u, exec i s.afterOp = .next u →
      ∃ u', exec i t = .next u' ∧ u' = { u with errv := t.errv, errcode := t.errcode }

/-! The perform step of each command. -/

/-- NOP completes: BUSY falls, DONE rises, and nothing else changes (42_buffer_control.md R111, 60_exceptions.md
R120). -/
def Obligations.NopCompletes : Prop :=
  ∀ s : State, s.quiet = true → exec .nop s = .next { s with busy := false, done := true }

/-- CLEAR writes 0x00 to every byte of Region(DB), leaves every other byte, completes, and changes nothing else
(42_buffer_control.md R109). -/
def Obligations.ClearZeroesTheBuffer : Prop :=
  ∀ s : State, s.quiet = true → s.lcmd.db.toNat + s.build.bufBytes ≤ s.build.memBytes →
    ∃ t, exec .clear s = .next t ∧ t = { s with mem := t.mem, busy := false, done := true } ∧
      ∀ a, t.mem.read a =
        if s.lcmd.db.toNat ≤ a ∧ a < s.lcmd.db.toNat + s.build.bufBytes then 0x00#8 else s.mem.read a

/-- GETPIX sets RESULT.PIXEL to bit 7 - (x mod 8) of byte SB + y * STRIDE + x div 8, completes, and changes nothing
else (40_pixel_access.md R86). -/
def Obligations.GetpixReadsThePixel : Prop :=
  ∀ (s : State) (x y : Nat), s.quiet = true → x < s.build.n → y < s.build.n →
    s.lcmd.sb.toNat + s.build.bufBytes ≤ s.build.memBytes →
    exec (.getpix x y) s = .next
      { s with
        pixel := (s.mem.read (s.lcmd.sb.toNat + y * s.build.stride + x / 8)).getLsbD (7 - x % 8)
        busy := false
        done := true }

/-- SETPIX writes its value to bit 7 - (x mod 8) of byte DB + y * STRIDE + x div 8, keeps the other seven bits and
every other byte, completes, and changes nothing else (40_pixel_access.md R88). -/
def Obligations.SetpixWritesThePixel : Prop :=
  ∀ (s : State) (x y : Nat) (v : Bool), s.quiet = true → x < s.build.n → y < s.build.n →
    s.lcmd.db.toNat + s.build.bufBytes ≤ s.build.memBytes →
    ∃ t, exec (.setpix x y v) s = .next t ∧ t = { s with mem := t.mem, busy := false, done := true } ∧
      ∀ a j, j < 8 → (t.mem.read a).getLsbD j =
        if a = s.lcmd.db.toNat + y * s.build.stride + x / 8 ∧ j = 7 - x % 8 then v else (s.mem.read a).getLsbD j

/-- ROTATE takes the snapshot of its source into SCR, sets INVAL, pulses inval_o and completes; it writes no byte
outside Region(DB) and changes nothing else (41_rotate.md R91, R92, R98). -/
def Obligations.RotateCompletesWithItsFrame : Prop :=
  ∀ s : State, s.rotateReady = true →
    ∃ t, exec .rotate s = .next t ∧
      t = { s with mem := t.mem, scr := t.scr, busy := false, done := true, inval := true, invalO := true } ∧
      (∀ i, i < s.build.bufBytes → t.scr.readScr i = s.mem.read (s.lcmd.sb.toNat + i)) ∧
      ∀ a, ¬(s.lcmd.db.toNat ≤ a ∧ a < s.lcmd.db.toNat + s.build.bufBytes) → t.mem.read a = s.mem.read a

/-- A completed SETPIX and then a completed GETPIX of the same pixel of the same buffer, no other write to that byte
between, leave the value in RESULT (the spec infers this in 40_pixel_access.md R87 from R84, R86 and R88). -/
def Obligations.GetpixAfterSetpixRoundTrip : Prop :=
  ∀ (s t s' t' : State) (x y : Nat) (v : Bool),
    s.quiet = true → exec (.setpix x y v) s = .next t →
    s'.quiet = true → s'.build = s.build → s'.lcmd.sb = s.lcmd.db →
    s'.mem.read (s.lcmd.db.toNat + y * s.build.stride + x / 8) =
      t.mem.read (s.lcmd.db.toNat + y * s.build.stride + x / 8) →
    exec (.getpix x y) s' = .next t' → t'.pixel = v

/-- A command struck by a concurrent access completes all the same, with the INVAL of ROTATE; bytes outside its write
set keep their values, and of the registers only those it names change (20_memory.md R62, 60_exceptions.md R120,
R134). That the run goes on after the hazard is the model's choice (log 8). -/
def Obligations.StruckCommandStillCompletes : Prop :=
  ∀ (s : State) (i : Instr), s.build.valid = true → s.busy = true → s.raced = true → s.lcmd.instr = some i →
    s.lcmd.fits s.build = true →
    ∃ t, exec i s = .next t ∧
      t = { s with
            mem := t.mem, scr := t.scr, pixel := t.pixel, draws := t.draws, raced := false, busy := false, done := true
            inval := s.inval || i.op == 0x1#4, invalO := s.invalO || i.op == 0x1#4 } ∧
      (i.op ≠ 0x1#4 → t.scr = s.scr) ∧ (i.op ≠ 0x3#4 → t.pixel = s.pixel) ∧
      ∀ a, (writeSet s.build s.lcmd).has a = false → t.mem.read a = s.mem.read a

/-! ROTATE as a whole (41_rotate.md section 3 and 4). -/

/-- The closed form of ROTATE, which the spec infers in 41_rotate.md R99 from the stages R92 to R97: every bit of
every byte of the destination buffer is as it says, from the source at the perform step (R100), whatever the overlap
of the two regions (R105); no byte outside Region(DB) changes, and SCR holds the source. -/
def Obligations.RotateHasTheClosedForm : Prop :=
  ∀ s : State, s.rotateReady = true → ∃ t, exec .rotate s = .next t ∧
    (∀ i j, i < s.build.bufBytes → j < 8 →
      bufBit t.mem s.lcmd.db i j = rotatedBit s.build s.mem s.lcmd.sb s.lcmd.d i j) ∧
    (∀ a, (region s.build s.lcmd.db).has a = false → t.mem.read a = s.mem.read a) ∧
    ∀ i, i < s.build.bufBytes → t.scr.readScr i = s.mem.read (s.lcmd.sb.toNat + i)

/-- 41_rotate.md R95 and R96: each source pixel of a completed ROTATE stands at its image under the map, clockwise
(N-1-y, x) or counter-clockwise (y, N-1-x). -/
def Obligations.RotateMovesEachPixel : Prop :=
  ∀ (s t : State) (x y : Nat), rotatesTo s t → x < s.build.n → y < s.build.n →
    (s.lcmd.d = false →
      pix s.build t.mem s.lcmd.db (s.build.n - 1 - y) x = pix s.build s.mem s.lcmd.sb x y) ∧
    (s.lcmd.d = true →
      pix s.build t.mem s.lcmd.db y (s.build.n - 1 - x) = pix s.build s.mem s.lcmd.sb x y)

/-- The spec infers in 41_rotate.md R102 (from R95, R96 and R99): the map applied four times is the identity, four
completed ROTATEs with one DIR, each taking the previous one's destination as its source, restore the pixel content,
and they restore the bytes exactly when the original padding bits were all 0. -/
def Obligations.FourRotationsRestoreTheImage : Prop :=
  (∀ (n : Nat) (d : Bool) (x y : Nat), x < n → y < n →
    let f := fun p : Nat × Nat => rotMap n d p.1 p.2
    f (f (f (f (x, y)))) = (x, y)) ∧
  ∀ s₀ t₀ s₁ t₁ s₂ t₂ s₃ t₃ : State,
    rotatesTo s₀ t₀ → takesDestination t₀ s₁ → s₁.lcmd.d = s₀.lcmd.d →
    rotatesTo s₁ t₁ → takesDestination t₁ s₂ → s₂.lcmd.d = s₀.lcmd.d →
    rotatesTo s₂ t₂ → takesDestination t₂ s₃ → s₃.lcmd.d = s₀.lcmd.d →
    rotatesTo s₃ t₃ →
    (∀ x y, x < s₀.build.n → y < s₀.build.n →
      pix s₀.build t₃.mem s₃.lcmd.db x y = pix s₀.build s₀.mem s₀.lcmd.sb x y) ∧
    ((∀ i, i < s₀.build.bufBytes → t₃.mem.read (s₃.lcmd.db.toNat + i) = s₀.mem.read (s₀.lcmd.sb.toNat + i)) ↔
      ∀ i j, i < s₀.build.bufBytes → j < 8 → isPadding s₀.build i j = true → bufBit s₀.mem s₀.lcmd.sb i j = false)

/-- The spec infers in 41_rotate.md R107 (from R96 and R99): a completed ROTATE and then one of the other direction,
taking the first's destination as its source, restore the pixel content. -/
def Obligations.OppositeRotationUndoes : Prop :=
  ∀ s₀ t₀ s₁ t₁ : State, rotatesTo s₀ t₀ → takesDestination t₀ s₁ → s₁.lcmd.d = !s₀.lcmd.d → rotatesTo s₁ t₁ →
    ∀ x y, x < s₀.build.n → y < s₀.build.n →
      pix s₀.build t₁.mem s₁.lcmd.db x y = pix s₀.build s₀.mem s₀.lcmd.sb x y

/-- The spec infers in 41_rotate.md R103 (from R101 and R104): ROTATE keeps the number of foreground pixels, which is
also the number of 1 bits in the destination bytes; the source bytes may hold more. -/
def Obligations.RotateKeepsThePixelCount : Prop :=
  ∀ s t : State, rotatesTo s t →
    pixelCount s.build t.mem s.lcmd.db = pixelCount s.build s.mem s.lcmd.sb ∧
    bitCount s.build t.mem s.lcmd.db = pixelCount s.build s.mem s.lcmd.sb ∧
    pixelCount s.build s.mem s.lcmd.sb ≤ bitCount s.build s.mem s.lcmd.sb

/-- The spec infers in 41_rotate.md R104 (from R93, R97 and R99): after ROTATE every padding bit of the destination is
0, and so is every padding byte. -/
def Obligations.RotateZeroesPadding : Prop :=
  ∀ s t : State, rotatesTo s t → ∀ i, i < s.build.bufBytes →
    (∀ j, j < 8 → isPadding s.build i j = true → bufBit t.mem s.lcmd.db i j = false) ∧
    (s.build.minStride ≤ i % s.build.stride → t.mem.read (s.lcmd.db.toNat + i) = 0x00#8)

/-- The spec infers in 41_rotate.md R106 (from R101 and R104): an all-background source gives bytes that are all 0x00,
and an all-foreground source gives the rows the rule spells out. -/
def Obligations.UniformImagesStayUniform : Prop :=
  ∀ s t : State, rotatesTo s t →
    ((∀ x y, x < s.build.n → y < s.build.n → pix s.build s.mem s.lcmd.sb x y = false) →
      ∀ i, i < s.build.bufBytes → t.mem.read (s.lcmd.db.toNat + i) = 0x00#8) ∧
    ((∀ x y, x < s.build.n → y < s.build.n → pix s.build s.mem s.lcmd.sb x y = true) →
      ∀ i, i < s.build.bufBytes →
        t.mem.read (s.lcmd.db.toNat + i) = fullRowByte s.build (i % s.build.stride))

/-- The order in which stages 2 to 4 visit the source coordinates is not architectural (the spec infers this in
41_rotate.md R108 from R99 and R101): visited once each, in any order, they leave the same bytes. -/
def Obligations.ScanOrderDoesNotMatter : Prop :=
  ∀ (b : Build) (scr m : Memory) (d : Bool) (db : Nat) (order : List (Nat × Nat)),
    order.Nodup → (∀ x y, (x, y) ∈ order ↔ x < b.n ∧ y < b.n) →
    ∀ a, (order.foldl (fun m' p => stampPixel b scr d db p.1 p.2 m') m).read a = (stampImage b scr d db m).read a

/-- Source padding has no influence on a rotation (00_scope.md R18, 20_memory.md R55): two ROTATEs of one build and
one direction whose sources have equal pixel content (R19) leave equal destination bytes. -/
def Obligations.PaddingDoesNotInfluenceRotate : Prop :=
  ∀ s t s' t' : State, rotatesTo s t → rotatesTo s' t' → s'.build = s.build → s'.lcmd.d = s.lcmd.d →
    (∀ x y, x < s.build.n → y < s.build.n →
      pix s.build s'.mem s'.lcmd.sb x y = pix s.build s.mem s.lcmd.sb x y) →
    ∀ i, i < s.build.bufBytes → t'.mem.read (s'.lcmd.db.toNat + i) = t.mem.read (s.lcmd.db.toNat + i)

/-! The outputs (60_exceptions.md section 3). -/

/-- irq_o is bit 1 of CTRL and one of bits 1 and 3 of STATUS, as they read; so it is down after reset, and an accepted
command drops it while ERRV = 0 (60_exceptions.md R121; 10_state.md R43; the spec infers the last in R122). -/
def Obligations.InterruptFollowsStatus : Prop :=
  (∀ s : State, s.irqO = ((registerValue s 0x0C).getLsbD 1 &&
    ((registerValue s 0x1C).getLsbD 1 || (registerValue s 0x1C).getLsbD 3))) ∧
  State.reset.irqO = false ∧
  ∀ (i : Instr) (s : State), s.errv = false → (accepted i s).irqO = false

/-- 60_exceptions.md R123: inval_o is up after a step exactly when that step completed a ROTATE, whatever IRQ_EN is,
and INVAL is then 1. -/
def Obligations.PulseExactlyOnRotateCompletion : Prop :=
  ∀ s t : State, step s = .next t →
    (t.invalO = true ↔ s.performs 0x1#4) ∧ (t.invalO = true → t.inval = true)

/-! The host and surface memory (20_memory.md R47, R62). -/

/-- A host write of a surface-memory byte that is no hazard changes that byte alone, and a read of one that is no
hazard returns it and changes nothing; with a command in flight they see memory as if it had not yet run (20_memory.md
R62). That the write is complete at its step is the premise of log 19. -/
def Obligations.HostByteAccessOutsideTheCommand : Prop :=
  ∀ (s : State) (a : Word), s.runs = true → s.turn = .host → a.toNat < s.build.memBytes →
    (∀ v, s.nextOp = some (.memWrite a v) →
      (s.busy = true → (readSet s.build s.lcmd).has a.toNat = false ∧ (writeSet s.build s.lcmd).has a.toNat = false) →
      ∃ t, step s = .next t ∧ t = { s.afterOp with mem := t.mem } ∧
        ∀ k, t.mem.read k = if k = a.toNat then v else s.mem.read k) ∧
    ∀ name, s.nextOp = some (.memRead a name) →
      (s.busy = true → (writeSet s.build s.lcmd).has a.toNat = false) →
      ∃ t, step s = .next t ∧ t = { s.afterOp with names := t.names } ∧
        t.nameValue name = some (BitVec.ofNat 32 (s.mem.read a.toNat).toNat) ∧
        ∀ k, k ≠ name → t.nameValue k = s.nameValue k

/-- 20_memory.md R62: a host write to RD or WR, or a host read of WR, of a command in flight is recorded as the fault
ConcurrentAccess and the run is not final; that the run goes on, with the command in flight marked as struck, is the
model's choice (log 8). -/
def Obligations.ConcurrentAccessIsRecorded : Prop :=
  ∀ (s : State) (a : Word), s.runs = true → s.turn = .host → s.busy = true → a.toNat < s.build.memBytes →
    (∀ v, s.nextOp = some (.memWrite a v) →
      ((readSet s.build s.lcmd).has a.toNat = true ∨ (writeSet s.build s.lcmd).has a.toNat = true) →
      ∃ t, step s = .next t ∧ t = { s.afterOp with mem := t.mem, faults := t.faults, raced := true } ∧
        (∀ r, r ∈ t.faults ↔ r ∈ s.faults ∨ r = .concurrentAccess a true) ∧ t.final = false ∧
        ∀ k, k ≠ a.toNat → t.mem.read k = s.mem.read k) ∧
    ∀ name, s.nextOp = some (.memRead a name) → (writeSet s.build s.lcmd).has a.toNat = true →
      ∃ t, step s = .next t ∧
        t = { s.afterOp with names := t.names, faults := t.faults, raced := true, draws := t.draws } ∧
        (∀ r, r ∈ t.faults ↔ r ∈ s.faults ∨ r = .concurrentAccess a false) ∧ t.final = false

/-- The access sets of 20_memory.md section 5, byte by byte, for a latched command. -/
def Obligations.AccessSetsAreTheTable : Prop :=
  ∀ (b : Build) (l : Latched) (a : Nat),
    ((readSet b l).has a = true ↔
      (l.op = 0x1#4 ∧ l.sb.toNat ≤ a ∧ a < l.sb.toNat + b.bufBytes) ∨
      (l.op = 0x3#4 ∧ a = l.sb.toNat + l.y.toNat * b.stride + l.x.toNat / 8) ∨
      (l.op = 0x4#4 ∧ a = l.db.toNat + l.y.toNat * b.stride + l.x.toNat / 8)) ∧
    ((writeSet b l).has a = true ↔
      ((l.op = 0x1#4 ∨ l.op = 0x2#4) ∧ l.db.toNat ≤ a ∧ a < l.db.toNat + b.bufBytes) ∨
      (l.op = 0x4#4 ∧ a = l.db.toNat + l.y.toNat * b.stride + l.x.toNat / 8))

/-- The set of fault records only grows, and a run with a fault record, with the refusal flag up or with BUSY = 1 is
not final (10_state.md R45, R46). That no step is taken from a state with the refusal flag up is the model's choice
(log 9). -/
def Obligations.FaultRecordsOnlyGrow : Prop :=
  (∀ s t : State, step s = .next t → ∀ r, r ∈ s.faults → r ∈ t.faults) ∧
  (∀ s t : State, step s = .next t → s.refused = false) ∧
  ∀ s : State, s.faults ≠ [] ∨ s.refused = true ∨ s.busy = true → s.final = false

/-- The host notation of 30_encoding.md R79. WAIT reads STATUS into the name s, once in a turn of the host (log 24),
and stays while BUSY = 1. A label is a position of the program, the first one where it stands twice (log 16), and
doing it changes nothing. BNZ branches to its label exactly when a bit of the mask is 1 in the named value. -/
def Obligations.HostControlFlow : Prop :=
  ∀ s : State,
    (∀ l k, s.labelPos l = some k ↔
      s.prog[k]? = some (.label l) ∧ ∀ j, j < k → s.prog[j]? ≠ some (.label l)) ∧
    (s.runs = true → s.turn = .host →
      (s.nextOp = some .wait →
        ∃ t, step s = .next t ∧
          t = { s.begin with
            rdata := registerValue s 0x1C, names := t.names, hostPc := if s.busy then s.hostPc else s.hostPc + 1 } ∧
          t.nameValue waitName = some (registerValue s 0x1C) ∧
          ∀ k, k ≠ waitName → t.nameValue k = s.nameValue k) ∧
      (∀ l, s.nextOp = some (.label l) → step s = .next s.afterOp) ∧
      ∀ name mask l v k, s.nextOp = some (.branchNZ name mask l) → s.nameValue name = some v → s.labelPos l = some k →
        (v &&& mask ≠ 0#32 → step s = .next { s.begin with hostPc := k }) ∧
        (v &&& mask = 0#32 → step s = .next s.afterOp))

/-- The pseudo-commands ROTCW and ROTCCW (30_encoding.md R78): their first operation writes DIR and keeps IRQ_EN, and
their second is ROTATE. -/
def Obligations.RotatePseudoCommandsSetDirection : Prop :=
  ∀ (s : State) (ccw : Bool), s.runs = true → s.rst = false → s.turn = .host →
    s.nextOp = (rotateProgram ccw s.irqEn)[0]? →
    step s = .next { s.afterOp with dir := ccw } ∧
    (rotateProgram ccw s.irqEn)[1]? = some (.cmd .rotate) ∧ (rotateProgram ccw s.irqEn).length = 2

/-! Reset (70_reset_and_hazards.md). -/

/-- The machine right after reset (70_reset_and_hazards.md R137, 10_state.md R45): the registers are 0 and read so,
the outputs are down, ID reads its constant, no fault is recorded and no refusal; the pin rst is no longer asserted.
-/
def Obligations.ResetStateHasTheResetValues : Prop :=
  State.reset.registersReset = true ∧ State.reset.irqO = false ∧ State.reset.invalO = false ∧
  State.reset.rst = false ∧ State.reset.faults = [] ∧ State.reset.refused = false ∧
  State.reset.ctrlWord = 0#32 ∧ State.reset.statusWord = 0#32 ∧ State.reset.resultWord = 0#32 ∧
  State.reset.readReg .id = 0x46425231#32

/-- Asserting rst puts every register at its reset value and the outputs down, abandons the command in flight, and
changes no byte of surface memory outside that command's write set; SCR, LCMD and the bytes of the write set are left
open (70_reset_and_hazards.md R137, R138, R139). That the reset event leaves reg_rdata alone is the model's choice
(log 14), and so is that it leaves the host's program, position and names, the fault records and the refusal flag
alone (log 22). -/
def Obligations.ResetEventClearsTheRegisters : Prop :=
  ∀ s : State, s.runs = true → s.resets →
    ∃ t, step s = .next t ∧ t.registersReset = true ∧ t.irqO = false ∧ t.invalO = false ∧ t.rst = true ∧
      t.build = s.build ∧ t.faults = s.faults ∧ t.refused = s.refused ∧ t.prog = s.prog ∧ t.hostPc = s.hostPc ∧
      t.names = s.names ∧ t.rdata = s.rdata ∧
      ∀ a, (s.busy = true → (writeSet s.build s.lcmd).has a = false) → t.mem.read a = s.mem.read a

/-- Releasing rst changes the level of the pin and nothing else, so the block is out of reset with its registers at their
reset values, idle, and irq_o down (70_reset_and_hazards.md R137). That the registers have kept these values while rst
was asserted is the clause rst_registers of the invariant (log 10, the model's choice). -/
def Obligations.ReleaseOfResetChangesNothingElse : Prop :=
  ∀ s : State, s.runs = true → s.turn = .reset false →
    ∃ t, step s = .next t ∧ t = { s with turns := s.turns.tail, invalO := false, rst := false } ∧
      (s.Inv → s.rst = true → t.registersReset = true ∧ t.irqO = false)

/-- While rst is asserted a CMD write of any word, spelled `W CMD, w` or `C <command>` (30_encoding.md R79), is
ignored and records nothing (70_reset_and_hazards.md R137). -/
def Obligations.CommandDuringResetIsIgnored : Prop :=
  ∀ s : State, s.runs = true → s.turn = .host → s.rst = true →
    ((∃ w, s.nextOp = some (.regWrite 0x18#6 .word w)) ∨ ∃ i : Instr, i.wf = true ∧ s.nextOp = some (.cmd i)) →
    step s = .next s.afterOp

/-! The step (10_state.md R45). -/

/-- A step runs the decoded command (log 11 for the form of `exec`): a CMD write to the idle block of a word that
decodes to `i` is the meaning of `i` in the state the host operation finds. -/
def Obligations.StepRunsTheSubmittedCommand : Prop :=
  ∀ (s : State) (w : Word) (i : Instr), s.runs = true → s.busy = false → s.hostCommands w → decode w = .ok i →
    step s = exec i s.afterOp

/-- A step performs the latched command (log 11 for the form of `exec`): with BUSY = 1 the engine's turn is the
meaning of the command in LCMD. The command in LCMD after the acceptance of a well-formed command is that command,
with its operands (10_state.md R38, 60_exceptions.md R116). -/
def Obligations.StepPerformsTheLatchedCommand : Prop :=
  (∀ (s : State) (i : Instr), s.runs = true → s.turn = .engine → s.busy = true → s.lcmd.instr = some i →
    step s = exec i s.begin) ∧
  ∀ (s : State) (i : Instr), i.wf = true → (accepted i s).lcmd.instr = some i

/-- The engine is enabled exactly when BUSY = 1 (10_state.md R45), and the block is idle with BUSY = 0: with no host
operation left, all state survives a step but the end of an inval_o pulse (60_exceptions.md R133). -/
def Obligations.IdleBlockDoesNothing : Prop :=
  ∀ s : State, s.runs = true → s.busy = false → (s.turn = .engine ∨ (s.turn = .host ∧ s.nextOp = none)) →
    step s = .next { s with turns := s.turns.tail, invalO := false }

/-- A build that breaks a limit of 00_scope.md R7 to R11 is no block: every step is refused. -/
def Obligations.InvalidBuildIsRefused : Prop :=
  ∀ s : State, s.refused = false →
    (s.build.n = 0 ∨ 256 < s.build.n ∨ s.build.strideAlign ∉ [1, 2, 4, 8, 16, 32, 64] ∨
      s.build.memBytes < s.build.bufBytes ∨ 4294967296 < s.build.memBytes) →
    step s = .refused .invalidConfiguration

/-- The build parameters are constants: no step changes them, and so ID, PARAM and MEMTOP read the same for ever
(10_state.md R24, R25, R26). -/
def Obligations.BuildConstantsNeverChange : Prop :=
  ∀ s t : State, step s = .next t →
    t.build = s.build ∧ ∀ off, off ∈ [0x00, 0x04, 0x08] → registerValue t off = registerValue s off

/-- Every accepted command performs and completes: from a state with the invariant, the engine's turn takes a next
state, in which BUSY = 0 and DONE = 1 if a command was in flight (60_exceptions.md R120, R134). -/
def Obligations.AcceptedCommandNeverFaults : Prop :=
  ∀ s : State, s.Inv → s.runs = true → s.turn = .engine →
    ∃ t, step s = .next t ∧ t.busy = false ∧ (s.busy = true → t.done = true)

/-- An accepted command completes in the engine's next turn (70_reset_and_hazards.md R149, fairness): a legal CMD
write to the idle block and then one turn that the schedule leaves to the engine are the acceptance of the decoded
command and its perform step, and end with BUSY = 0 and DONE = 1. That an empty schedule gives the turn to the engine
is the model's choice (log 5). -/
def Obligations.AcceptedCommandCompletes : Prop :=
  ∀ (s : State) (w : Word) (i : Instr), s.Inv → s.runs = true → s.busy = false → s.hostCommands w →
    s.turns.tail = [] → decode w = .ok i → ¬outOfRange s.build.n i →
    buffersInBounds s.build s.srcBase s.dstBase i →
    Sys2Proof.core.run 2 s = exec i (accepted i s.afterOp).begin ∧
    ∃ t, Sys2Proof.core.run 2 s = .next t ∧ t.busy = false ∧ t.done = true ∧ t.errv = s.errv ∧
      t.errcode = s.errcode

/-- The end of a run is its end (10_state.md R46): from a final state, unless the reset pin moves, a step leads to a
final state in which nothing has changed but the list of turns (the model's own, log 5) and the end of an inval_o
pulse (log 15). -/
def Obligations.FinalStateStaysFinal : Prop :=
  ∀ s : State, s.final = true → s.runs = true → (∀ level, s.turn ≠ .reset level) →
    ∃ t, step s = .next t ∧ t = { s with turns := s.turns.tail, invalO := false } ∧ t.final = true

/-- Every step keeps the invariant, whatever the agent whose turn it is. Some of its clauses are the model's choice:
the canonical form of memory (mem_wf and scr_wf, log 2), that only a command in flight is marked as struck
(raced_busy, log 8), that reset holds the registers at their reset values for as long as rst is asserted
(rst_registers, log 10), and the form of the inval_o pulse (pulse_inval, log 15). -/
def Obligations.EveryStepKeepsTheInvariant : Prop :=
  ∀ s t : State, s.Inv → step s = .next t → t.Inv

/-- The invariant holds right after reset (in the build of log 1, the model's choice). -/
def Obligations.ResetStateHasTheInvariant : Prop := State.reset.Inv
end

