-- ==== Sys2Proof/Laws/Encoding.lean ====
section
/-! SUPPORT. The bits of a packed command word (30_encoding.md R68): which field each bit belongs to, and that each
field reads back. -/

namespace Sys2Proof

theorem packFields_bit (y x : BitVec 8) (v : Bool) (op : BitVec 4) (k : Nat) (hk : k < 32) :
    (packFields y x v op).getLsbD k =
      if k < 4 then op.getLsbD k else if k = 8 then v else if k < 16 then false
      else if k < 24 then x.getLsbD (k - 16) else y.getLsbD (k - 24) := by
  unfold packFields
  simp only [BitVec.getLsbD_or, BitVec.getLsbD_shiftLeft, BitVec.getLsbD_setWidth, BitVec.getLsbD_ofBool]
  interval_cases k <;> simp

theorem opField_packFields (y x : BitVec 8) (v : Bool) (op : BitVec 4) : opField (packFields y x v op) = op := by
  apply BitVec.eq_of_getLsbD_eq
  intro i hi
  rw [opField, BitVec.getLsbD_extractLsb', packFields_bit _ _ _ _ _ (by omega), if_pos (by omega)]
  simp [hi]

theorem xField_packFields (y x : BitVec 8) (v : Bool) (op : BitVec 4) : xField (packFields y x v op) = x.toNat := by
  unfold xField
  congr 1
  apply BitVec.eq_of_getLsbD_eq
  intro i hi
  rw [BitVec.getLsbD_extractLsb', packFields_bit _ _ _ _ _ (by omega), if_neg (by omega), if_neg (by omega),
    if_neg (by omega), if_pos (by omega)]
  simp [hi]

theorem yField_packFields (y x : BitVec 8) (v : Bool) (op : BitVec 4) : yField (packFields y x v op) = y.toNat := by
  unfold yField
  congr 1
  apply BitVec.eq_of_getLsbD_eq
  intro i hi
  rw [BitVec.getLsbD_extractLsb', packFields_bit _ _ _ _ _ (by omega), if_neg (by omega), if_neg (by omega),
    if_neg (by omega), if_neg (by omega)]
  simp [hi]

theorem vField_packFields (y x : BitVec 8) (v : Bool) (op : BitVec 4) : vField (packFields y x v op) = v := by
  rw [vField, packFields_bit _ _ _ _ _ (by omega)]
  simp

end Sys2Proof
end

