-- ==== Sys2Proof/Laws/Geometry.lean ====
section
/-! SUPPORT. Where pixels lie: the limits of a valid build as inequalities, the byte and bit of a pixel inside its
buffer, the range of the rotation map, and the access sets inside surface memory. -/

namespace Sys2Proof

/-- The limits of 00_scope.md R7, R8 and R11, as propositions. -/
theorem Build.valid_iff (b : Build) :
    b.valid = true ↔
      1 ≤ b.n ∧ b.n ≤ 256 ∧ b.strideAlign ∈ [1, 2, 4, 8, 16, 32, 64] ∧ b.bufBytes ≤ b.memBytes ∧
        b.memBytes ≤ 4294967296 := by
  simp only [Build.valid, Bool.and_eq_true, decide_eq_true_eq, List.contains_iff_mem, and_assoc]

theorem Build.strideAlign_pos (b : Build) (h : b.valid = true) : 0 < b.strideAlign := by
  have := ((b.valid_iff).1 h).2.2.1
  simp at this
  omega

/-- The source's "stride >= ceil(N/8)" (00_scope.md R9). -/
theorem Build.minStride_le_stride (b : Build) (h : b.valid = true) : b.minStride ≤ b.stride := by
  have ha := b.strideAlign_pos h
  have h1 := Nat.div_add_mod (b.minStride + b.strideAlign - 1) b.strideAlign
  have h2 := Nat.mod_lt (b.minStride + b.strideAlign - 1) ha
  rw [Nat.mul_comm] at h1
  unfold Build.stride
  omega

/-- A row has a bit for every column. -/
theorem Build.n_le_columns (b : Build) (h : b.valid = true) : b.n ≤ 8 * b.stride := by
  have h1 := b.minStride_le_stride h
  unfold Build.minStride at h1
  omega

namespace Machine

/-- The byte of a pixel lies inside the buffer. -/
theorem pixel_in_buffer (b : Build) (h : b.valid = true) {x y : Nat} (hx : x < b.n) (hy : y < b.n) :
    y * b.stride + x / 8 < b.bufBytes := by
  have h1 : x / 8 < b.stride := by have := b.n_le_columns h; omega
  calc y * b.stride + x / 8 < (y + 1) * b.stride := by rw [Nat.add_mul, Nat.one_mul]; omega
    _ ≤ b.n * b.stride := Nat.mul_le_mul_right _ hy
    _ = b.bufBytes := Nat.mul_comm _ _

theorem rotMap_in_range (n : Nat) (d : Bool) {x y : Nat} (hx : x < n) (hy : y < n) :
    (rotMap n d x y).1 < n ∧ (rotMap n d x y).2 < n := by
  unfold rotMap
  split <;> simp <;> omega

/-- Bit `j` of byte `i` of the buffer at `base` is the bit of column `nx` in row `ny` exactly when the row and the
column are those the byte and bit stand for. -/
theorem byteAddr_bit_iff (b : Build) (base : Nat) {nx ny i j : Nat} (hnx : nx < 8 * b.stride) :
    (base + i = byteAddr b base nx ny ∧ j = 7 - nx % 8) ↔ (j < 8 ∧ ny = i / b.stride ∧ nx = bitColumn b i j) := by
  have hs : 0 < b.stride := by omega
  unfold byteAddr bitColumn
  constructor
  · rintro ⟨h1, h2⟩
    have hi : i = b.stride * ny + nx / 8 := by rw [Nat.mul_comm]; omega
    have hlt : nx / 8 < b.stride := by omega
    have e1 : i / b.stride = ny := by rw [hi, Nat.mul_add_div hs, Nat.div_eq_of_lt hlt]; rfl
    have e2 : i % b.stride = nx / 8 := by rw [hi, Nat.mul_add_mod, Nat.mod_eq_of_lt hlt]
    exact ⟨by omega, e1.symm, by omega⟩
  · rintro ⟨hj, rfl, h2⟩
    have h3 := Nat.div_add_mod i b.stride
    rw [Nat.mul_comm] at h3
    generalize i / b.stride * b.stride = r at *
    omega

/-- The bytes that a fitting command writes lie in surface memory (20_memory.md section 5). -/
theorem writeSet_in_memory (b : Build) (l : Latched) (hv : b.valid = true) (hf : l.fits b = true) :
    (writeSet b l).start + (writeSet b l).len ≤ b.memBytes := by
  unfold writeSet
  unfold Latched.fits Latched.instr at hf
  split
  · rename_i h; simp [h, regionOk] at hf; simp [region]; omega
  split
  · rename_i h; simp [h, regionOk] at hf; simp [region]; omega
  split
  · rename_i h
    simp [h, regionOk, coordOk] at hf
    have := pixel_in_buffer b hv hf.1.1 hf.1.2
    simp [pixelSpan, byteAddr]
    omega
  · simp [emptySpan]

end Machine

end Sys2Proof
end

