-- ==== Sys2Proof/Laws/Memory.lean ====
section
/-! SUPPORT. What a byte of memory reads as after each memory operation, and that each keeps the canonical form and
the size of the memory. -/

namespace Sys2Proof.Machine

/-! One byte. -/

@[simp] theorem Memory.entry_nil (a : Nat) : Memory.entry [] a = none := rfl

theorem Memory.entry_cons (k : Nat) (v : Byte) (rest : Memory) (a : Nat) :
    Memory.entry ((k, v) :: rest) a = if k = a then some v else Memory.entry rest a := rfl

/-- A write changes its byte alone (20_memory.md R54). -/
theorem Memory.entry_write (m : Memory) (a b : Nat) (v : Byte) :
    (m.write a v).entry b = if b = a then some v else m.entry b := by
  induction m with
  | nil => simp [Memory.write, Memory.entry_cons, eq_comm]
  | cons c rest ih =>
    obtain ⟨k, u⟩ := c
    unfold Memory.write
    split
    · simp [Memory.entry_cons, eq_comm]
    split
    · rename_i h
      subst h
      by_cases hb : b = a <;> simp [Memory.entry_cons, hb, Ne.symm]
    · rename_i h
      rw [Memory.entry_cons, ih, Memory.entry_cons]
      by_cases hk : k = b
      · subst hk; simp [Ne.symm h]
      · simp [hk]

/-- What a byte of surface memory reads as after a write. -/
theorem Memory.read_write (m : Memory) (a b : Nat) (v : Byte) :
    (m.write a v).read b = if b = a then v else m.read b := by
  unfold Memory.read
  rw [Memory.entry_write]
  split <;> rfl

/-- What a byte of SCR reads as after a write. -/
theorem Memory.readScr_write (m : Memory) (a b : Nat) (v : Byte) :
    (m.write a v).readScr b = if b = a then v else m.readScr b := by
  unfold Memory.readScr
  rw [Memory.entry_write]
  split <;> rfl

@[simp] theorem Memory.read_write_same (m : Memory) (a : Nat) (v : Byte) : (m.write a v).read a = v := by
  simp [Memory.read_write]

theorem Memory.read_write_other (m : Memory) {a b : Nat} (v : Byte) (h : b ≠ a) :
    (m.write a v).read b = m.read b := by
  simp [Memory.read_write, h]

/-! The canonical form. -/

theorem Memory.wfFrom_mono {lo lo' : Nat} (m : Memory) (h : lo' ≤ lo) (hm : Memory.wfFrom lo m = true) :
    Memory.wfFrom lo' m = true := by
  cases m with
  | nil => rfl
  | cons c rest =>
    obtain ⟨k, v⟩ := c
    simp only [Memory.wfFrom, Bool.and_eq_true, decide_eq_true_eq] at hm ⊢
    exact ⟨by omega, hm.2⟩

theorem Memory.wfFrom_write (m : Memory) (a lo : Nat) (v : Byte) (hlo : lo ≤ a) (hm : Memory.wfFrom lo m = true) :
    Memory.wfFrom lo (m.write a v) = true := by
  induction m generalizing lo with
  | nil => simp [Memory.write, Memory.wfFrom, hlo]
  | cons c rest ih =>
    obtain ⟨k, u⟩ := c
    simp only [Memory.wfFrom, Bool.and_eq_true, decide_eq_true_eq] at hm
    unfold Memory.write
    split
    · simp only [Memory.wfFrom, Bool.and_eq_true, decide_eq_true_eq]
      exact ⟨hlo, by omega, hm.2⟩
    split
    · rename_i h
      subst h
      simp only [Memory.wfFrom, Bool.and_eq_true, decide_eq_true_eq]
      exact hm
    · simp only [Memory.wfFrom, Bool.and_eq_true, decide_eq_true_eq]
      exact ⟨hm.1, ih (k + 1) (by omega) hm.2⟩

/-- A write keeps the canonical form. -/
theorem Memory.write_wf (m : Memory) (a : Nat) (v : Byte) (h : m.wf = true) : (m.write a v).wf = true :=
  Memory.wfFrom_write m a 0 v (by omega) h

theorem Memory.below_iff (m : Memory) (n : Nat) : m.below n = true ↔ ∀ c ∈ m, c.1 < n := by
  simp [Memory.below]

/-- A write below `n` keeps a memory of `n` bytes one. -/
theorem Memory.write_below (m : Memory) (a n : Nat) (v : Byte) (ha : a < n) (h : m.below n = true) :
    (m.write a v).below n = true := by
  rw [Memory.below_iff] at h ⊢
  induction m with
  | nil => simpa [Memory.write] using ha
  | cons c rest ih =>
    obtain ⟨k, u⟩ := c
    simp only [List.forall_mem_cons] at h
    unfold Memory.write
    split
    · simpa only [List.forall_mem_cons] using ⟨ha, h⟩
    split
    · simpa only [List.forall_mem_cons] using ⟨ha, h.2⟩
    · simpa only [List.forall_mem_cons] using ⟨h.1, ih h.2⟩

/-- A canonical memory has no entry below its first one. -/
theorem Memory.entry_below_first (m : Memory) (lo a : Nat) (h : Memory.wfFrom lo m = true) (ha : a < lo) :
    m.entry a = none := by
  induction m generalizing lo with
  | nil => rfl
  | cons c rest ih =>
    obtain ⟨k, v⟩ := c
    simp only [Memory.wfFrom, Bool.and_eq_true, decide_eq_true_eq] at h
    rw [Memory.entry_cons, if_neg (by omega)]
    exact ih (k + 1) h.2 (by omega)

/-! Loops over a region. -/

@[simp] theorem forRange_zero {α : Type} (f : Nat → α → α) (a : α) : forRange 0 f a = a := rfl

theorem forRange_succ {α : Type} (n : Nat) (f : Nat → α → α) (a : α) :
    forRange (n + 1) f a = f n (forRange n f a) := rfl

/-- What a loop keeps at every index it keeps as a whole. -/
theorem forRange_keeps {α : Type} (P : α → Prop) (n : Nat) (f : Nat → α → α) (a : α) (h : P a)
    (hf : ∀ i, i < n → ∀ x, P x → P (f i x)) : P (forRange n f a) := by
  induction n with
  | zero => exact h
  | succ k ih => exact hf k (by omega) _ (ih fun i hi => hf i (by omega))

/-- A loop that writes byte `start + i` at each index `i` leaves the written value in the span and every other byte
alone. -/
theorem Memory.entry_fill (f : Nat → Byte) (start len : Nat) (m : Memory) (a : Nat) :
    Memory.entry (forRange len (fun i x => Memory.write x (start + i) (f i)) m) a =
      if start ≤ a ∧ a < start + len then some (f (a - start)) else m.entry a := by
  induction len with
  | zero => simp [show ¬(start ≤ a ∧ a < start) by omega]
  | succ k ih =>
    rw [forRange_succ, Memory.entry_write, ih]
    by_cases h : a = start + k
    · subst h; simp
    · rw [if_neg h]
      by_cases h2 : start ≤ a ∧ a < start + k
      · rw [if_pos h2, if_pos (by omega)]
      · rw [if_neg h2, if_neg (by omega)]

theorem Memory.read_fill (f : Nat → Byte) (start len : Nat) (m : Memory) (a : Nat) :
    (forRange len (fun i x => Memory.write x (start + i) (f i)) m).read a =
      if start ≤ a ∧ a < start + len then f (a - start) else m.read a := by
  unfold Memory.read
  rw [Memory.entry_fill]
  split <;> rfl

theorem Memory.fill_wf (f : Nat → Byte) (start len : Nat) (m : Memory) (h : m.wf = true) :
    Memory.wf (forRange len (fun i x => Memory.write x (start + i) (f i)) m) = true :=
  forRange_keeps (fun x => Memory.wf x = true) len _ m h fun _ _ x hx => Memory.write_wf x _ _ hx

theorem Memory.fill_below (f : Nat → Byte) (start len n : Nat) (m : Memory) (hn : start + len ≤ n)
    (h : m.below n = true) :
    Memory.below n (forRange len (fun i x => Memory.write x (start + i) (f i)) m) = true :=
  forRange_keeps (fun x => Memory.below n x = true) len _ m h fun i hi x hx =>
    Memory.write_below x _ n _ (by omega) hx

/-- Stage 0 of ROTATE, byte by byte (41_rotate.md R92). -/
theorem Memory.readScr_snapshot (src dst : Memory) (start len a : Nat) :
    (src.snapshot start len dst).readScr a = if a < len then src.read (start + a) else dst.readScr a := by
  have h := Memory.entry_fill (fun i => src.read (start + i)) 0 len dst a
  simp only [Nat.zero_add, Nat.zero_le, true_and, Nat.sub_zero] at h
  unfold Memory.readScr Memory.snapshot
  rw [h]
  split <;> rfl

/-- Stage 1 of ROTATE and CLEAR, byte by byte (41_rotate.md R93). -/
theorem Memory.read_clear (m : Memory) (start len a : Nat) :
    (m.clear start len).read a = if start ≤ a ∧ a < start + len then 0x00#8 else m.read a :=
  Memory.read_fill (fun _ => 0x00#8) start len m a

/-- Bytes outside an unspecified span keep their values. -/
theorem Memory.read_scramble_outside (m : Memory) (start len draw a : Nat) (h : ¬(start ≤ a ∧ a < start + len)) :
    (m.scramble start len draw).read a = m.read a := by
  rw [Memory.scramble, Memory.read_fill, if_neg h]

theorem Memory.snapshot_wf (src dst : Memory) (start len : Nat) (h : dst.wf = true) :
    (src.snapshot start len dst).wf = true := by
  have := Memory.fill_wf (fun i => src.read (start + i)) 0 len dst h
  simpa [Memory.snapshot] using this

theorem Memory.clear_wf (m : Memory) (start len : Nat) (h : m.wf = true) : (m.clear start len).wf = true :=
  Memory.fill_wf (fun _ => 0x00#8) start len m h

theorem Memory.scramble_wf (m : Memory) (start len draw : Nat) (h : m.wf = true) :
    (m.scramble start len draw).wf = true :=
  Memory.fill_wf (fun i => Config.freeByte (draw + i)) start len m h

theorem Memory.snapshot_below (src dst : Memory) (start len n : Nat) (hn : len ≤ n) (h : dst.below n = true) :
    (src.snapshot start len dst).below n = true := by
  have := Memory.fill_below (fun i => src.read (start + i)) 0 len n dst (by omega) h
  simpa [Memory.snapshot] using this

theorem Memory.clear_below (m : Memory) (start len n : Nat) (hn : start + len ≤ n) (h : m.below n = true) :
    (m.clear start len).below n = true :=
  Memory.fill_below (fun _ => 0x00#8) start len n m hn h

theorem Memory.scramble_below (m : Memory) (start len draw n : Nat) (hn : start + len ≤ n) (h : m.below n = true) :
    (m.scramble start len draw).below n = true :=
  Memory.fill_below (fun i => Config.freeByte (draw + i)) start len n m hn h

theorem reset_mem_wf : State.reset.mem.wf = true := rfl

theorem reset_scr_wf : State.reset.scr.wf = true := rfl

end Sys2Proof.Machine
end

