-- ==== Sys2Proof/Laws/State.lean ====
section
/-! SUPPORT. One lemma per field and named update of State: what the field holds after the update. With them no proof
unfolds a record update. -/

namespace Sys2Proof.Machine

/-! State.writeCtrl -/

@[simp] theorem State.writeCtrl_build (s : State) (v : Word) : (s.writeCtrl v).build = s.build := rfl
@[simp] theorem State.writeCtrl_dir (s : State) (v : Word) : (s.writeCtrl v).dir = v.getLsbD 0 := rfl
@[simp] theorem State.writeCtrl_irqEn (s : State) (v : Word) : (s.writeCtrl v).irqEn = v.getLsbD 1 := rfl
@[simp] theorem State.writeCtrl_srcBase (s : State) (v : Word) : (s.writeCtrl v).srcBase = s.srcBase := rfl
@[simp] theorem State.writeCtrl_dstBase (s : State) (v : Word) : (s.writeCtrl v).dstBase = s.dstBase := rfl
@[simp] theorem State.writeCtrl_busy (s : State) (v : Word) : (s.writeCtrl v).busy = s.busy := rfl
@[simp] theorem State.writeCtrl_done (s : State) (v : Word) : (s.writeCtrl v).done = s.done := rfl
@[simp] theorem State.writeCtrl_inval (s : State) (v : Word) : (s.writeCtrl v).inval = s.inval := rfl
@[simp] theorem State.writeCtrl_errv (s : State) (v : Word) : (s.writeCtrl v).errv = s.errv := rfl
@[simp] theorem State.writeCtrl_errcode (s : State) (v : Word) : (s.writeCtrl v).errcode = s.errcode := rfl
@[simp] theorem State.writeCtrl_pixel (s : State) (v : Word) : (s.writeCtrl v).pixel = s.pixel := rfl
@[simp] theorem State.writeCtrl_lcmd (s : State) (v : Word) : (s.writeCtrl v).lcmd = s.lcmd := rfl
@[simp] theorem State.writeCtrl_scr (s : State) (v : Word) : (s.writeCtrl v).scr = s.scr := rfl
@[simp] theorem State.writeCtrl_mem (s : State) (v : Word) : (s.writeCtrl v).mem = s.mem := rfl
@[simp] theorem State.writeCtrl_faults (s : State) (v : Word) : (s.writeCtrl v).faults = s.faults := rfl
@[simp] theorem State.writeCtrl_refused (s : State) (v : Word) : (s.writeCtrl v).refused = s.refused := rfl
@[simp] theorem State.writeCtrl_rst (s : State) (v : Word) : (s.writeCtrl v).rst = s.rst := rfl
@[simp] theorem State.writeCtrl_invalO (s : State) (v : Word) : (s.writeCtrl v).invalO = s.invalO := rfl
@[simp] theorem State.writeCtrl_rdata (s : State) (v : Word) : (s.writeCtrl v).rdata = s.rdata := rfl
@[simp] theorem State.writeCtrl_prog (s : State) (v : Word) : (s.writeCtrl v).prog = s.prog := rfl
@[simp] theorem State.writeCtrl_hostPc (s : State) (v : Word) : (s.writeCtrl v).hostPc = s.hostPc := rfl
@[simp] theorem State.writeCtrl_names (s : State) (v : Word) : (s.writeCtrl v).names = s.names := rfl
@[simp] theorem State.writeCtrl_turns (s : State) (v : Word) : (s.writeCtrl v).turns = s.turns := rfl
@[simp] theorem State.writeCtrl_raced (s : State) (v : Word) : (s.writeCtrl v).raced = s.raced := rfl
@[simp] theorem State.writeCtrl_draws (s : State) (v : Word) : (s.writeCtrl v).draws = s.draws := rfl

/-! State.writeStatus -/

@[simp] theorem State.writeStatus_build (s : State) (v : Word) : (s.writeStatus v).build = s.build := rfl
@[simp] theorem State.writeStatus_dir (s : State) (v : Word) : (s.writeStatus v).dir = s.dir := rfl
@[simp] theorem State.writeStatus_irqEn (s : State) (v : Word) : (s.writeStatus v).irqEn = s.irqEn := rfl
@[simp] theorem State.writeStatus_srcBase (s : State) (v : Word) : (s.writeStatus v).srcBase = s.srcBase := rfl
@[simp] theorem State.writeStatus_dstBase (s : State) (v : Word) : (s.writeStatus v).dstBase = s.dstBase := rfl
@[simp] theorem State.writeStatus_busy (s : State) (v : Word) : (s.writeStatus v).busy = s.busy := rfl
@[simp] theorem State.writeStatus_done (s : State) (v : Word) :
    (s.writeStatus v).done = (s.done && !v.getLsbD 1) := rfl
@[simp] theorem State.writeStatus_inval (s : State) (v : Word) :
    (s.writeStatus v).inval = (s.inval && !v.getLsbD 2) := rfl
@[simp] theorem State.writeStatus_errv (s : State) (v : Word) :
    (s.writeStatus v).errv = (s.errv && !v.getLsbD 3) := rfl
@[simp] theorem State.writeStatus_errcode (s : State) (v : Word) :
    (s.writeStatus v).errcode = (if v.getLsbD 3 then 0#4 else s.errcode) := rfl
@[simp] theorem State.writeStatus_pixel (s : State) (v : Word) : (s.writeStatus v).pixel = s.pixel := rfl
@[simp] theorem State.writeStatus_lcmd (s : State) (v : Word) : (s.writeStatus v).lcmd = s.lcmd := rfl
@[simp] theorem State.writeStatus_scr (s : State) (v : Word) : (s.writeStatus v).scr = s.scr := rfl
@[simp] theorem State.writeStatus_mem (s : State) (v : Word) : (s.writeStatus v).mem = s.mem := rfl
@[simp] theorem State.writeStatus_faults (s : State) (v : Word) : (s.writeStatus v).faults = s.faults := rfl
@[simp] theorem State.writeStatus_refused (s : State) (v : Word) : (s.writeStatus v).refused = s.refused := rfl
@[simp] theorem State.writeStatus_rst (s : State) (v : Word) : (s.writeStatus v).rst = s.rst := rfl
@[simp] theorem State.writeStatus_invalO (s : State) (v : Word) : (s.writeStatus v).invalO = s.invalO := rfl
@[simp] theorem State.writeStatus_rdata (s : State) (v : Word) : (s.writeStatus v).rdata = s.rdata := rfl
@[simp] theorem State.writeStatus_prog (s : State) (v : Word) : (s.writeStatus v).prog = s.prog := rfl
@[simp] theorem State.writeStatus_hostPc (s : State) (v : Word) : (s.writeStatus v).hostPc = s.hostPc := rfl
@[simp] theorem State.writeStatus_names (s : State) (v : Word) : (s.writeStatus v).names = s.names := rfl
@[simp] theorem State.writeStatus_turns (s : State) (v : Word) : (s.writeStatus v).turns = s.turns := rfl
@[simp] theorem State.writeStatus_raced (s : State) (v : Word) : (s.writeStatus v).raced = s.raced := rfl
@[simp] theorem State.writeStatus_draws (s : State) (v : Word) : (s.writeStatus v).draws = s.draws := rfl

/-! State.reject -/

@[simp] theorem State.reject_build (s : State) (r : Reject) : (s.reject r).build = s.build := by
  unfold State.reject; split <;> rfl
@[simp] theorem State.reject_dir (s : State) (r : Reject) : (s.reject r).dir = s.dir := by
  unfold State.reject; split <;> rfl
@[simp] theorem State.reject_irqEn (s : State) (r : Reject) : (s.reject r).irqEn = s.irqEn := by
  unfold State.reject; split <;> rfl
@[simp] theorem State.reject_srcBase (s : State) (r : Reject) : (s.reject r).srcBase = s.srcBase := by
  unfold State.reject; split <;> rfl
@[simp] theorem State.reject_dstBase (s : State) (r : Reject) : (s.reject r).dstBase = s.dstBase := by
  unfold State.reject; split <;> rfl
@[simp] theorem State.reject_busy (s : State) (r : Reject) : (s.reject r).busy = s.busy := by
  unfold State.reject; split <;> rfl
@[simp] theorem State.reject_done (s : State) (r : Reject) : (s.reject r).done = s.done := by
  unfold State.reject; split <;> rfl
@[simp] theorem State.reject_inval (s : State) (r : Reject) : (s.reject r).inval = s.inval := by
  unfold State.reject; split <;> rfl
@[simp] theorem State.reject_errv (s : State) (r : Reject) : (s.reject r).errv = true := by
  unfold State.reject; split <;> simp_all
@[simp] theorem State.reject_errcode (s : State) (r : Reject) :
    (s.reject r).errcode = (if s.errv then s.errcode else r.code) := by
  unfold State.reject; split <;> simp_all
@[simp] theorem State.reject_pixel (s : State) (r : Reject) : (s.reject r).pixel = s.pixel := by
  unfold State.reject; split <;> rfl
@[simp] theorem State.reject_lcmd (s : State) (r : Reject) : (s.reject r).lcmd = s.lcmd := by
  unfold State.reject; split <;> rfl
@[simp] theorem State.reject_scr (s : State) (r : Reject) : (s.reject r).scr = s.scr := by
  unfold State.reject; split <;> rfl
@[simp] theorem State.reject_mem (s : State) (r : Reject) : (s.reject r).mem = s.mem := by
  unfold State.reject; split <;> rfl
@[simp] theorem State.reject_faults (s : State) (r : Reject) : (s.reject r).faults = s.faults := by
  unfold State.reject; split <;> rfl
@[simp] theorem State.reject_refused (s : State) (r : Reject) : (s.reject r).refused = s.refused := by
  unfold State.reject; split <;> rfl
@[simp] theorem State.reject_rst (s : State) (r : Reject) : (s.reject r).rst = s.rst := by
  unfold State.reject; split <;> rfl
@[simp] theorem State.reject_invalO (s : State) (r : Reject) : (s.reject r).invalO = s.invalO := by
  unfold State.reject; split <;> rfl
@[simp] theorem State.reject_rdata (s : State) (r : Reject) : (s.reject r).rdata = s.rdata := by
  unfold State.reject; split <;> rfl
@[simp] theorem State.reject_prog (s : State) (r : Reject) : (s.reject r).prog = s.prog := by
  unfold State.reject; split <;> rfl
@[simp] theorem State.reject_hostPc (s : State) (r : Reject) : (s.reject r).hostPc = s.hostPc := by
  unfold State.reject; split <;> rfl
@[simp] theorem State.reject_names (s : State) (r : Reject) : (s.reject r).names = s.names := by
  unfold State.reject; split <;> rfl
@[simp] theorem State.reject_turns (s : State) (r : Reject) : (s.reject r).turns = s.turns := by
  unfold State.reject; split <;> rfl
@[simp] theorem State.reject_raced (s : State) (r : Reject) : (s.reject r).raced = s.raced := by
  unfold State.reject; split <;> rfl
@[simp] theorem State.reject_draws (s : State) (r : Reject) : (s.reject r).draws = s.draws := by
  unfold State.reject; split <;> rfl

/-! State.accept -/

@[simp] theorem State.accept_build (s : State) (l : Latched) : (s.accept l).build = s.build := rfl
@[simp] theorem State.accept_dir (s : State) (l : Latched) : (s.accept l).dir = s.dir := rfl
@[simp] theorem State.accept_irqEn (s : State) (l : Latched) : (s.accept l).irqEn = s.irqEn := rfl
@[simp] theorem State.accept_srcBase (s : State) (l : Latched) : (s.accept l).srcBase = s.srcBase := rfl
@[simp] theorem State.accept_dstBase (s : State) (l : Latched) : (s.accept l).dstBase = s.dstBase := rfl
@[simp] theorem State.accept_busy (s : State) (l : Latched) : (s.accept l).busy = true := rfl
@[simp] theorem State.accept_done (s : State) (l : Latched) : (s.accept l).done = false := rfl
@[simp] theorem State.accept_inval (s : State) (l : Latched) : (s.accept l).inval = s.inval := rfl
@[simp] theorem State.accept_errv (s : State) (l : Latched) : (s.accept l).errv = s.errv := rfl
@[simp] theorem State.accept_errcode (s : State) (l : Latched) : (s.accept l).errcode = s.errcode := rfl
@[simp] theorem State.accept_pixel (s : State) (l : Latched) : (s.accept l).pixel = s.pixel := rfl
@[simp] theorem State.accept_lcmd (s : State) (l : Latched) : (s.accept l).lcmd = l := rfl
@[simp] theorem State.accept_scr (s : State) (l : Latched) : (s.accept l).scr = s.scr := rfl
@[simp] theorem State.accept_mem (s : State) (l : Latched) : (s.accept l).mem = s.mem := rfl
@[simp] theorem State.accept_faults (s : State) (l : Latched) : (s.accept l).faults = s.faults := rfl
@[simp] theorem State.accept_refused (s : State) (l : Latched) : (s.accept l).refused = s.refused := rfl
@[simp] theorem State.accept_rst (s : State) (l : Latched) : (s.accept l).rst = s.rst := rfl
@[simp] theorem State.accept_invalO (s : State) (l : Latched) : (s.accept l).invalO = s.invalO := rfl
@[simp] theorem State.accept_rdata (s : State) (l : Latched) : (s.accept l).rdata = s.rdata := rfl
@[simp] theorem State.accept_prog (s : State) (l : Latched) : (s.accept l).prog = s.prog := rfl
@[simp] theorem State.accept_hostPc (s : State) (l : Latched) : (s.accept l).hostPc = s.hostPc := rfl
@[simp] theorem State.accept_names (s : State) (l : Latched) : (s.accept l).names = s.names := rfl
@[simp] theorem State.accept_turns (s : State) (l : Latched) : (s.accept l).turns = s.turns := rfl
@[simp] theorem State.accept_raced (s : State) (l : Latched) : (s.accept l).raced = false := rfl
@[simp] theorem State.accept_draws (s : State) (l : Latched) : (s.accept l).draws = s.draws := rfl

/-! State.complete -/

@[simp] theorem State.complete_build (s : State) : (s.complete).build = s.build := rfl
@[simp] theorem State.complete_dir (s : State) : (s.complete).dir = s.dir := rfl
@[simp] theorem State.complete_irqEn (s : State) : (s.complete).irqEn = s.irqEn := rfl
@[simp] theorem State.complete_srcBase (s : State) : (s.complete).srcBase = s.srcBase := rfl
@[simp] theorem State.complete_dstBase (s : State) : (s.complete).dstBase = s.dstBase := rfl
@[simp] theorem State.complete_busy (s : State) : (s.complete).busy = false := rfl
@[simp] theorem State.complete_done (s : State) : (s.complete).done = true := rfl
@[simp] theorem State.complete_inval (s : State) : (s.complete).inval = s.inval := rfl
@[simp] theorem State.complete_errv (s : State) : (s.complete).errv = s.errv := rfl
@[simp] theorem State.complete_errcode (s : State) : (s.complete).errcode = s.errcode := rfl
@[simp] theorem State.complete_pixel (s : State) : (s.complete).pixel = s.pixel := rfl
@[simp] theorem State.complete_lcmd (s : State) : (s.complete).lcmd = s.lcmd := rfl
@[simp] theorem State.complete_scr (s : State) : (s.complete).scr = s.scr := rfl
@[simp] theorem State.complete_mem (s : State) : (s.complete).mem = s.mem := rfl
@[simp] theorem State.complete_faults (s : State) : (s.complete).faults = s.faults := rfl
@[simp] theorem State.complete_refused (s : State) : (s.complete).refused = s.refused := rfl
@[simp] theorem State.complete_rst (s : State) : (s.complete).rst = s.rst := rfl
@[simp] theorem State.complete_invalO (s : State) : (s.complete).invalO = s.invalO := rfl
@[simp] theorem State.complete_rdata (s : State) : (s.complete).rdata = s.rdata := rfl
@[simp] theorem State.complete_prog (s : State) : (s.complete).prog = s.prog := rfl
@[simp] theorem State.complete_hostPc (s : State) : (s.complete).hostPc = s.hostPc := rfl
@[simp] theorem State.complete_names (s : State) : (s.complete).names = s.names := rfl
@[simp] theorem State.complete_turns (s : State) : (s.complete).turns = s.turns := rfl
@[simp] theorem State.complete_raced (s : State) : (s.complete).raced = false := rfl
@[simp] theorem State.complete_draws (s : State) : (s.complete).draws = s.draws := rfl

/-! State.invalidate -/

@[simp] theorem State.invalidate_build (s : State) : (s.invalidate).build = s.build := rfl
@[simp] theorem State.invalidate_dir (s : State) : (s.invalidate).dir = s.dir := rfl
@[simp] theorem State.invalidate_irqEn (s : State) : (s.invalidate).irqEn = s.irqEn := rfl
@[simp] theorem State.invalidate_srcBase (s : State) : (s.invalidate).srcBase = s.srcBase := rfl
@[simp] theorem State.invalidate_dstBase (s : State) : (s.invalidate).dstBase = s.dstBase := rfl
@[simp] theorem State.invalidate_busy (s : State) : (s.invalidate).busy = s.busy := rfl
@[simp] theorem State.invalidate_done (s : State) : (s.invalidate).done = s.done := rfl
@[simp] theorem State.invalidate_inval (s : State) : (s.invalidate).inval = true := rfl
@[simp] theorem State.invalidate_errv (s : State) : (s.invalidate).errv = s.errv := rfl
@[simp] theorem State.invalidate_errcode (s : State) : (s.invalidate).errcode = s.errcode := rfl
@[simp] theorem State.invalidate_pixel (s : State) : (s.invalidate).pixel = s.pixel := rfl
@[simp] theorem State.invalidate_lcmd (s : State) : (s.invalidate).lcmd = s.lcmd := rfl
@[simp] theorem State.invalidate_scr (s : State) : (s.invalidate).scr = s.scr := rfl
@[simp] theorem State.invalidate_mem (s : State) : (s.invalidate).mem = s.mem := rfl
@[simp] theorem State.invalidate_faults (s : State) : (s.invalidate).faults = s.faults := rfl
@[simp] theorem State.invalidate_refused (s : State) : (s.invalidate).refused = s.refused := rfl
@[simp] theorem State.invalidate_rst (s : State) : (s.invalidate).rst = s.rst := rfl
@[simp] theorem State.invalidate_invalO (s : State) : (s.invalidate).invalO = true := rfl
@[simp] theorem State.invalidate_rdata (s : State) : (s.invalidate).rdata = s.rdata := rfl
@[simp] theorem State.invalidate_prog (s : State) : (s.invalidate).prog = s.prog := rfl
@[simp] theorem State.invalidate_hostPc (s : State) : (s.invalidate).hostPc = s.hostPc := rfl
@[simp] theorem State.invalidate_names (s : State) : (s.invalidate).names = s.names := rfl
@[simp] theorem State.invalidate_turns (s : State) : (s.invalidate).turns = s.turns := rfl
@[simp] theorem State.invalidate_raced (s : State) : (s.invalidate).raced = s.raced := rfl
@[simp] theorem State.invalidate_draws (s : State) : (s.invalidate).draws = s.draws := rfl

/-! State.scrambleMem -/

@[simp] theorem State.scrambleMem_build (s : State) (r : Span) : (s.scrambleMem r).build = s.build := rfl
@[simp] theorem State.scrambleMem_dir (s : State) (r : Span) : (s.scrambleMem r).dir = s.dir := rfl
@[simp] theorem State.scrambleMem_irqEn (s : State) (r : Span) : (s.scrambleMem r).irqEn = s.irqEn := rfl
@[simp] theorem State.scrambleMem_srcBase (s : State) (r : Span) : (s.scrambleMem r).srcBase = s.srcBase := rfl
@[simp] theorem State.scrambleMem_dstBase (s : State) (r : Span) : (s.scrambleMem r).dstBase = s.dstBase := rfl
@[simp] theorem State.scrambleMem_busy (s : State) (r : Span) : (s.scrambleMem r).busy = s.busy := rfl
@[simp] theorem State.scrambleMem_done (s : State) (r : Span) : (s.scrambleMem r).done = s.done := rfl
@[simp] theorem State.scrambleMem_inval (s : State) (r : Span) : (s.scrambleMem r).inval = s.inval := rfl
@[simp] theorem State.scrambleMem_errv (s : State) (r : Span) : (s.scrambleMem r).errv = s.errv := rfl
@[simp] theorem State.scrambleMem_errcode (s : State) (r : Span) : (s.scrambleMem r).errcode = s.errcode := rfl
@[simp] theorem State.scrambleMem_pixel (s : State) (r : Span) : (s.scrambleMem r).pixel = s.pixel := rfl
@[simp] theorem State.scrambleMem_lcmd (s : State) (r : Span) : (s.scrambleMem r).lcmd = s.lcmd := rfl
@[simp] theorem State.scrambleMem_scr (s : State) (r : Span) : (s.scrambleMem r).scr = s.scr := rfl
@[simp] theorem State.scrambleMem_mem (s : State) (r : Span) :
    (s.scrambleMem r).mem = s.mem.scramble r.start r.len s.draws := rfl
@[simp] theorem State.scrambleMem_faults (s : State) (r : Span) : (s.scrambleMem r).faults = s.faults := rfl
@[simp] theorem State.scrambleMem_refused (s : State) (r : Span) : (s.scrambleMem r).refused = s.refused := rfl
@[simp] theorem State.scrambleMem_rst (s : State) (r : Span) : (s.scrambleMem r).rst = s.rst := rfl
@[simp] theorem State.scrambleMem_invalO (s : State) (r : Span) : (s.scrambleMem r).invalO = s.invalO := rfl
@[simp] theorem State.scrambleMem_rdata (s : State) (r : Span) : (s.scrambleMem r).rdata = s.rdata := rfl
@[simp] theorem State.scrambleMem_prog (s : State) (r : Span) : (s.scrambleMem r).prog = s.prog := rfl
@[simp] theorem State.scrambleMem_hostPc (s : State) (r : Span) : (s.scrambleMem r).hostPc = s.hostPc := rfl
@[simp] theorem State.scrambleMem_names (s : State) (r : Span) : (s.scrambleMem r).names = s.names := rfl
@[simp] theorem State.scrambleMem_turns (s : State) (r : Span) : (s.scrambleMem r).turns = s.turns := rfl
@[simp] theorem State.scrambleMem_raced (s : State) (r : Span) : (s.scrambleMem r).raced = s.raced := rfl
@[simp] theorem State.scrambleMem_draws (s : State) (r : Span) : (s.scrambleMem r).draws = s.draws + r.len := rfl

/-! State.scrambleScr -/

@[simp] theorem State.scrambleScr_build (s : State) : (s.scrambleScr).build = s.build := rfl
@[simp] theorem State.scrambleScr_dir (s : State) : (s.scrambleScr).dir = s.dir := rfl
@[simp] theorem State.scrambleScr_irqEn (s : State) : (s.scrambleScr).irqEn = s.irqEn := rfl
@[simp] theorem State.scrambleScr_srcBase (s : State) : (s.scrambleScr).srcBase = s.srcBase := rfl
@[simp] theorem State.scrambleScr_dstBase (s : State) : (s.scrambleScr).dstBase = s.dstBase := rfl
@[simp] theorem State.scrambleScr_busy (s : State) : (s.scrambleScr).busy = s.busy := rfl
@[simp] theorem State.scrambleScr_done (s : State) : (s.scrambleScr).done = s.done := rfl
@[simp] theorem State.scrambleScr_inval (s : State) : (s.scrambleScr).inval = s.inval := rfl
@[simp] theorem State.scrambleScr_errv (s : State) : (s.scrambleScr).errv = s.errv := rfl
@[simp] theorem State.scrambleScr_errcode (s : State) : (s.scrambleScr).errcode = s.errcode := rfl
@[simp] theorem State.scrambleScr_pixel (s : State) : (s.scrambleScr).pixel = s.pixel := rfl
@[simp] theorem State.scrambleScr_lcmd (s : State) : (s.scrambleScr).lcmd = s.lcmd := rfl
@[simp] theorem State.scrambleScr_scr (s : State) :
    (s.scrambleScr).scr = s.scr.scramble 0 s.build.bufBytes s.draws := rfl
@[simp] theorem State.scrambleScr_mem (s : State) : (s.scrambleScr).mem = s.mem := rfl
@[simp] theorem State.scrambleScr_faults (s : State) : (s.scrambleScr).faults = s.faults := rfl
@[simp] theorem State.scrambleScr_refused (s : State) : (s.scrambleScr).refused = s.refused := rfl
@[simp] theorem State.scrambleScr_rst (s : State) : (s.scrambleScr).rst = s.rst := rfl
@[simp] theorem State.scrambleScr_invalO (s : State) : (s.scrambleScr).invalO = s.invalO := rfl
@[simp] theorem State.scrambleScr_rdata (s : State) : (s.scrambleScr).rdata = s.rdata := rfl
@[simp] theorem State.scrambleScr_prog (s : State) : (s.scrambleScr).prog = s.prog := rfl
@[simp] theorem State.scrambleScr_hostPc (s : State) : (s.scrambleScr).hostPc = s.hostPc := rfl
@[simp] theorem State.scrambleScr_names (s : State) : (s.scrambleScr).names = s.names := rfl
@[simp] theorem State.scrambleScr_turns (s : State) : (s.scrambleScr).turns = s.turns := rfl
@[simp] theorem State.scrambleScr_raced (s : State) : (s.scrambleScr).raced = s.raced := rfl
@[simp] theorem State.scrambleScr_draws (s : State) : (s.scrambleScr).draws = s.draws + s.build.bufBytes := rfl

/-! State.scrambleLcmd -/

@[simp] theorem State.scrambleLcmd_build (s : State) : (s.scrambleLcmd).build = s.build := rfl
@[simp] theorem State.scrambleLcmd_dir (s : State) : (s.scrambleLcmd).dir = s.dir := rfl
@[simp] theorem State.scrambleLcmd_irqEn (s : State) : (s.scrambleLcmd).irqEn = s.irqEn := rfl
@[simp] theorem State.scrambleLcmd_srcBase (s : State) : (s.scrambleLcmd).srcBase = s.srcBase := rfl
@[simp] theorem State.scrambleLcmd_dstBase (s : State) : (s.scrambleLcmd).dstBase = s.dstBase := rfl
@[simp] theorem State.scrambleLcmd_busy (s : State) : (s.scrambleLcmd).busy = s.busy := rfl
@[simp] theorem State.scrambleLcmd_done (s : State) : (s.scrambleLcmd).done = s.done := rfl
@[simp] theorem State.scrambleLcmd_inval (s : State) : (s.scrambleLcmd).inval = s.inval := rfl
@[simp] theorem State.scrambleLcmd_errv (s : State) : (s.scrambleLcmd).errv = s.errv := rfl
@[simp] theorem State.scrambleLcmd_errcode (s : State) : (s.scrambleLcmd).errcode = s.errcode := rfl
@[simp] theorem State.scrambleLcmd_pixel (s : State) : (s.scrambleLcmd).pixel = s.pixel := rfl
@[simp] theorem State.scrambleLcmd_scr (s : State) : (s.scrambleLcmd).scr = s.scr := rfl
@[simp] theorem State.scrambleLcmd_mem (s : State) : (s.scrambleLcmd).mem = s.mem := rfl
@[simp] theorem State.scrambleLcmd_faults (s : State) : (s.scrambleLcmd).faults = s.faults := rfl
@[simp] theorem State.scrambleLcmd_refused (s : State) : (s.scrambleLcmd).refused = s.refused := rfl
@[simp] theorem State.scrambleLcmd_rst (s : State) : (s.scrambleLcmd).rst = s.rst := rfl
@[simp] theorem State.scrambleLcmd_invalO (s : State) : (s.scrambleLcmd).invalO = s.invalO := rfl
@[simp] theorem State.scrambleLcmd_rdata (s : State) : (s.scrambleLcmd).rdata = s.rdata := rfl
@[simp] theorem State.scrambleLcmd_prog (s : State) : (s.scrambleLcmd).prog = s.prog := rfl
@[simp] theorem State.scrambleLcmd_hostPc (s : State) : (s.scrambleLcmd).hostPc = s.hostPc := rfl
@[simp] theorem State.scrambleLcmd_names (s : State) : (s.scrambleLcmd).names = s.names := rfl
@[simp] theorem State.scrambleLcmd_turns (s : State) : (s.scrambleLcmd).turns = s.turns := rfl
@[simp] theorem State.scrambleLcmd_raced (s : State) : (s.scrambleLcmd).raced = s.raced := rfl
@[simp] theorem State.scrambleLcmd_draws (s : State) : (s.scrambleLcmd).draws = s.draws + 7 := rfl

/-! State.advance -/

@[simp] theorem State.advance_build (s : State) : (s.advance).build = s.build := rfl
@[simp] theorem State.advance_dir (s : State) : (s.advance).dir = s.dir := rfl
@[simp] theorem State.advance_irqEn (s : State) : (s.advance).irqEn = s.irqEn := rfl
@[simp] theorem State.advance_srcBase (s : State) : (s.advance).srcBase = s.srcBase := rfl
@[simp] theorem State.advance_dstBase (s : State) : (s.advance).dstBase = s.dstBase := rfl
@[simp] theorem State.advance_busy (s : State) : (s.advance).busy = s.busy := rfl
@[simp] theorem State.advance_done (s : State) : (s.advance).done = s.done := rfl
@[simp] theorem State.advance_inval (s : State) : (s.advance).inval = s.inval := rfl
@[simp] theorem State.advance_errv (s : State) : (s.advance).errv = s.errv := rfl
@[simp] theorem State.advance_errcode (s : State) : (s.advance).errcode = s.errcode := rfl
@[simp] theorem State.advance_pixel (s : State) : (s.advance).pixel = s.pixel := rfl
@[simp] theorem State.advance_lcmd (s : State) : (s.advance).lcmd = s.lcmd := rfl
@[simp] theorem State.advance_scr (s : State) : (s.advance).scr = s.scr := rfl
@[simp] theorem State.advance_mem (s : State) : (s.advance).mem = s.mem := rfl
@[simp] theorem State.advance_faults (s : State) : (s.advance).faults = s.faults := rfl
@[simp] theorem State.advance_refused (s : State) : (s.advance).refused = s.refused := rfl
@[simp] theorem State.advance_rst (s : State) : (s.advance).rst = s.rst := rfl
@[simp] theorem State.advance_invalO (s : State) : (s.advance).invalO = s.invalO := rfl
@[simp] theorem State.advance_rdata (s : State) : (s.advance).rdata = s.rdata := rfl
@[simp] theorem State.advance_prog (s : State) : (s.advance).prog = s.prog := rfl
@[simp] theorem State.advance_hostPc (s : State) : (s.advance).hostPc = s.hostPc + 1 := rfl
@[simp] theorem State.advance_names (s : State) : (s.advance).names = s.names := rfl
@[simp] theorem State.advance_turns (s : State) : (s.advance).turns = s.turns := rfl
@[simp] theorem State.advance_raced (s : State) : (s.advance).raced = s.raced := rfl
@[simp] theorem State.advance_draws (s : State) : (s.advance).draws = s.draws := rfl

/-! State.bind -/

@[simp] theorem State.bind_build (s : State) (name : Nat) (v : Word) : (s.bind name v).build = s.build := rfl
@[simp] theorem State.bind_dir (s : State) (name : Nat) (v : Word) : (s.bind name v).dir = s.dir := rfl
@[simp] theorem State.bind_irqEn (s : State) (name : Nat) (v : Word) : (s.bind name v).irqEn = s.irqEn := rfl
@[simp] theorem State.bind_srcBase (s : State) (name : Nat) (v : Word) : (s.bind name v).srcBase = s.srcBase := rfl
@[simp] theorem State.bind_dstBase (s : State) (name : Nat) (v : Word) : (s.bind name v).dstBase = s.dstBase := rfl
@[simp] theorem State.bind_busy (s : State) (name : Nat) (v : Word) : (s.bind name v).busy = s.busy := rfl
@[simp] theorem State.bind_done (s : State) (name : Nat) (v : Word) : (s.bind name v).done = s.done := rfl
@[simp] theorem State.bind_inval (s : State) (name : Nat) (v : Word) : (s.bind name v).inval = s.inval := rfl
@[simp] theorem State.bind_errv (s : State) (name : Nat) (v : Word) : (s.bind name v).errv = s.errv := rfl
@[simp] theorem State.bind_errcode (s : State) (name : Nat) (v : Word) : (s.bind name v).errcode = s.errcode := rfl
@[simp] theorem State.bind_pixel (s : State) (name : Nat) (v : Word) : (s.bind name v).pixel = s.pixel := rfl
@[simp] theorem State.bind_lcmd (s : State) (name : Nat) (v : Word) : (s.bind name v).lcmd = s.lcmd := rfl
@[simp] theorem State.bind_scr (s : State) (name : Nat) (v : Word) : (s.bind name v).scr = s.scr := rfl
@[simp] theorem State.bind_mem (s : State) (name : Nat) (v : Word) : (s.bind name v).mem = s.mem := rfl
@[simp] theorem State.bind_faults (s : State) (name : Nat) (v : Word) : (s.bind name v).faults = s.faults := rfl
@[simp] theorem State.bind_refused (s : State) (name : Nat) (v : Word) : (s.bind name v).refused = s.refused := rfl
@[simp] theorem State.bind_rst (s : State) (name : Nat) (v : Word) : (s.bind name v).rst = s.rst := rfl
@[simp] theorem State.bind_invalO (s : State) (name : Nat) (v : Word) : (s.bind name v).invalO = s.invalO := rfl
@[simp] theorem State.bind_rdata (s : State) (name : Nat) (v : Word) : (s.bind name v).rdata = s.rdata := rfl
@[simp] theorem State.bind_prog (s : State) (name : Nat) (v : Word) : (s.bind name v).prog = s.prog := rfl
@[simp] theorem State.bind_hostPc (s : State) (name : Nat) (v : Word) : (s.bind name v).hostPc = s.hostPc := rfl
@[simp] theorem State.bind_names (s : State) (name : Nat) (v : Word) :
    (s.bind name v).names = (name, v) :: s.names.filter fun p => p.1 != name := rfl
@[simp] theorem State.bind_turns (s : State) (name : Nat) (v : Word) : (s.bind name v).turns = s.turns := rfl
@[simp] theorem State.bind_raced (s : State) (name : Nat) (v : Word) : (s.bind name v).raced = s.raced := rfl
@[simp] theorem State.bind_draws (s : State) (name : Nat) (v : Word) : (s.bind name v).draws = s.draws := rfl

/-! State.recordHazard -/

@[simp] theorem State.recordHazard_build (s : State) (r : FaultRecord) : (s.recordHazard r).build = s.build := rfl
@[simp] theorem State.recordHazard_dir (s : State) (r : FaultRecord) : (s.recordHazard r).dir = s.dir := rfl
@[simp] theorem State.recordHazard_irqEn (s : State) (r : FaultRecord) : (s.recordHazard r).irqEn = s.irqEn := rfl
@[simp] theorem State.recordHazard_srcBase (s : State) (r : FaultRecord) :
    (s.recordHazard r).srcBase = s.srcBase := rfl
@[simp] theorem State.recordHazard_dstBase (s : State) (r : FaultRecord) :
    (s.recordHazard r).dstBase = s.dstBase := rfl
@[simp] theorem State.recordHazard_busy (s : State) (r : FaultRecord) : (s.recordHazard r).busy = s.busy := rfl
@[simp] theorem State.recordHazard_done (s : State) (r : FaultRecord) : (s.recordHazard r).done = s.done := rfl
@[simp] theorem State.recordHazard_inval (s : State) (r : FaultRecord) : (s.recordHazard r).inval = s.inval := rfl
@[simp] theorem State.recordHazard_errv (s : State) (r : FaultRecord) : (s.recordHazard r).errv = s.errv := rfl
@[simp] theorem State.recordHazard_errcode (s : State) (r : FaultRecord) :
    (s.recordHazard r).errcode = s.errcode := rfl
@[simp] theorem State.recordHazard_pixel (s : State) (r : FaultRecord) : (s.recordHazard r).pixel = s.pixel := rfl
@[simp] theorem State.recordHazard_lcmd (s : State) (r : FaultRecord) : (s.recordHazard r).lcmd = s.lcmd := rfl
@[simp] theorem State.recordHazard_scr (s : State) (r : FaultRecord) : (s.recordHazard r).scr = s.scr := rfl
@[simp] theorem State.recordHazard_mem (s : State) (r : FaultRecord) : (s.recordHazard r).mem = s.mem := rfl
@[simp] theorem State.recordHazard_faults (s : State) (r : FaultRecord) :
    (s.recordHazard r).faults = (if r ∈ s.faults then s.faults else r :: s.faults) := rfl
@[simp] theorem State.recordHazard_refused (s : State) (r : FaultRecord) :
    (s.recordHazard r).refused = s.refused := rfl
@[simp] theorem State.recordHazard_rst (s : State) (r : FaultRecord) : (s.recordHazard r).rst = s.rst := rfl
@[simp] theorem State.recordHazard_invalO (s : State) (r : FaultRecord) : (s.recordHazard r).invalO = s.invalO := rfl
@[simp] theorem State.recordHazard_rdata (s : State) (r : FaultRecord) : (s.recordHazard r).rdata = s.rdata := rfl
@[simp] theorem State.recordHazard_prog (s : State) (r : FaultRecord) : (s.recordHazard r).prog = s.prog := rfl
@[simp] theorem State.recordHazard_hostPc (s : State) (r : FaultRecord) : (s.recordHazard r).hostPc = s.hostPc := rfl
@[simp] theorem State.recordHazard_names (s : State) (r : FaultRecord) : (s.recordHazard r).names = s.names := rfl
@[simp] theorem State.recordHazard_turns (s : State) (r : FaultRecord) : (s.recordHazard r).turns = s.turns := rfl
@[simp] theorem State.recordHazard_raced (s : State) (r : FaultRecord) : (s.recordHazard r).raced = true := rfl
@[simp] theorem State.recordHazard_draws (s : State) (r : FaultRecord) : (s.recordHazard r).draws = s.draws := rfl

/-! State.begin -/

@[simp] theorem State.begin_build (s : State) : (s.begin).build = s.build := rfl
@[simp] theorem State.begin_dir (s : State) : (s.begin).dir = s.dir := rfl
@[simp] theorem State.begin_irqEn (s : State) : (s.begin).irqEn = s.irqEn := rfl
@[simp] theorem State.begin_srcBase (s : State) : (s.begin).srcBase = s.srcBase := rfl
@[simp] theorem State.begin_dstBase (s : State) : (s.begin).dstBase = s.dstBase := rfl
@[simp] theorem State.begin_busy (s : State) : (s.begin).busy = s.busy := rfl
@[simp] theorem State.begin_done (s : State) : (s.begin).done = s.done := rfl
@[simp] theorem State.begin_inval (s : State) : (s.begin).inval = s.inval := rfl
@[simp] theorem State.begin_errv (s : State) : (s.begin).errv = s.errv := rfl
@[simp] theorem State.begin_errcode (s : State) : (s.begin).errcode = s.errcode := rfl
@[simp] theorem State.begin_pixel (s : State) : (s.begin).pixel = s.pixel := rfl
@[simp] theorem State.begin_lcmd (s : State) : (s.begin).lcmd = s.lcmd := rfl
@[simp] theorem State.begin_scr (s : State) : (s.begin).scr = s.scr := rfl
@[simp] theorem State.begin_mem (s : State) : (s.begin).mem = s.mem := rfl
@[simp] theorem State.begin_faults (s : State) : (s.begin).faults = s.faults := rfl
@[simp] theorem State.begin_refused (s : State) : (s.begin).refused = s.refused := rfl
@[simp] theorem State.begin_rst (s : State) : (s.begin).rst = s.rst := rfl
@[simp] theorem State.begin_invalO (s : State) : (s.begin).invalO = false := rfl
@[simp] theorem State.begin_rdata (s : State) : (s.begin).rdata = s.rdata := rfl
@[simp] theorem State.begin_prog (s : State) : (s.begin).prog = s.prog := rfl
@[simp] theorem State.begin_hostPc (s : State) : (s.begin).hostPc = s.hostPc := rfl
@[simp] theorem State.begin_names (s : State) : (s.begin).names = s.names := rfl
@[simp] theorem State.begin_turns (s : State) : (s.begin).turns = s.turns.tail := rfl
@[simp] theorem State.begin_raced (s : State) : (s.begin).raced = s.raced := rfl
@[simp] theorem State.begin_draws (s : State) : (s.begin).draws = s.draws := rfl

/-! State.afterOp -/

@[simp] theorem State.afterOp_build (s : State) : (s.afterOp).build = s.build := rfl
@[simp] theorem State.afterOp_dir (s : State) : (s.afterOp).dir = s.dir := rfl
@[simp] theorem State.afterOp_irqEn (s : State) : (s.afterOp).irqEn = s.irqEn := rfl
@[simp] theorem State.afterOp_srcBase (s : State) : (s.afterOp).srcBase = s.srcBase := rfl
@[simp] theorem State.afterOp_dstBase (s : State) : (s.afterOp).dstBase = s.dstBase := rfl
@[simp] theorem State.afterOp_busy (s : State) : (s.afterOp).busy = s.busy := rfl
@[simp] theorem State.afterOp_done (s : State) : (s.afterOp).done = s.done := rfl
@[simp] theorem State.afterOp_inval (s : State) : (s.afterOp).inval = s.inval := rfl
@[simp] theorem State.afterOp_errv (s : State) : (s.afterOp).errv = s.errv := rfl
@[simp] theorem State.afterOp_errcode (s : State) : (s.afterOp).errcode = s.errcode := rfl
@[simp] theorem State.afterOp_pixel (s : State) : (s.afterOp).pixel = s.pixel := rfl
@[simp] theorem State.afterOp_lcmd (s : State) : (s.afterOp).lcmd = s.lcmd := rfl
@[simp] theorem State.afterOp_scr (s : State) : (s.afterOp).scr = s.scr := rfl
@[simp] theorem State.afterOp_mem (s : State) : (s.afterOp).mem = s.mem := rfl
@[simp] theorem State.afterOp_faults (s : State) : (s.afterOp).faults = s.faults := rfl
@[simp] theorem State.afterOp_refused (s : State) : (s.afterOp).refused = s.refused := rfl
@[simp] theorem State.afterOp_rst (s : State) : (s.afterOp).rst = s.rst := rfl
@[simp] theorem State.afterOp_invalO (s : State) : (s.afterOp).invalO = false := rfl
@[simp] theorem State.afterOp_rdata (s : State) : (s.afterOp).rdata = s.rdata := rfl
@[simp] theorem State.afterOp_prog (s : State) : (s.afterOp).prog = s.prog := rfl
@[simp] theorem State.afterOp_hostPc (s : State) : (s.afterOp).hostPc = s.hostPc + 1 := rfl
@[simp] theorem State.afterOp_names (s : State) : (s.afterOp).names = s.names := rfl
@[simp] theorem State.afterOp_turns (s : State) : (s.afterOp).turns = s.turns.tail := rfl
@[simp] theorem State.afterOp_raced (s : State) : (s.afterOp).raced = s.raced := rfl
@[simp] theorem State.afterOp_draws (s : State) : (s.afterOp).draws = s.draws := rfl

/-! State.assertReset -/

@[simp] theorem State.assertReset_build (s : State) : (s.assertReset).build = s.build := by
  unfold State.assertReset; cases s.busy <;> rfl
@[simp] theorem State.assertReset_dir (s : State) : (s.assertReset).dir = false := rfl
@[simp] theorem State.assertReset_irqEn (s : State) : (s.assertReset).irqEn = false := rfl
@[simp] theorem State.assertReset_srcBase (s : State) : (s.assertReset).srcBase = 0#32 := rfl
@[simp] theorem State.assertReset_dstBase (s : State) : (s.assertReset).dstBase = 0#32 := rfl
@[simp] theorem State.assertReset_busy (s : State) : (s.assertReset).busy = false := rfl
@[simp] theorem State.assertReset_done (s : State) : (s.assertReset).done = false := rfl
@[simp] theorem State.assertReset_inval (s : State) : (s.assertReset).inval = false := rfl
@[simp] theorem State.assertReset_errv (s : State) : (s.assertReset).errv = false := rfl
@[simp] theorem State.assertReset_errcode (s : State) : (s.assertReset).errcode = 0#4 := rfl
@[simp] theorem State.assertReset_pixel (s : State) : (s.assertReset).pixel = false := rfl
@[simp] theorem State.assertReset_mem (s : State) :
    (s.assertReset).mem = (if s.busy then s.mem.scramble (writeSet s.build s.lcmd).start (writeSet s.build s.lcmd).len s.draws else s.mem) := by
  unfold State.assertReset; cases s.busy <;> rfl
@[simp] theorem State.assertReset_faults (s : State) : (s.assertReset).faults = s.faults := by
  unfold State.assertReset; cases s.busy <;> rfl
@[simp] theorem State.assertReset_refused (s : State) : (s.assertReset).refused = s.refused := by
  unfold State.assertReset; cases s.busy <;> rfl
@[simp] theorem State.assertReset_rst (s : State) : (s.assertReset).rst = true := rfl
@[simp] theorem State.assertReset_invalO (s : State) : (s.assertReset).invalO = false := rfl
@[simp] theorem State.assertReset_rdata (s : State) : (s.assertReset).rdata = s.rdata := by
  unfold State.assertReset; cases s.busy <;> rfl
@[simp] theorem State.assertReset_prog (s : State) : (s.assertReset).prog = s.prog := by
  unfold State.assertReset; cases s.busy <;> rfl
@[simp] theorem State.assertReset_hostPc (s : State) : (s.assertReset).hostPc = s.hostPc := by
  unfold State.assertReset; cases s.busy <;> rfl
@[simp] theorem State.assertReset_names (s : State) : (s.assertReset).names = s.names := by
  unfold State.assertReset; cases s.busy <;> rfl
@[simp] theorem State.assertReset_turns (s : State) : (s.assertReset).turns = s.turns := by
  unfold State.assertReset; cases s.busy <;> rfl
@[simp] theorem State.assertReset_raced (s : State) : (s.assertReset).raced = false := rfl

end Sys2Proof.Machine
end

