-- ==== Sys2Proof/Laws/Exec.lean ====
section
/-! SUPPORT. Everything the meaning of a command can do, said once: `exec_busy` and `exec_idle` say what it answers in
each phase, `exec_next` inverts it, and the `effectOf_` lemmas say what each perform step leaves alone and keeps. -/

namespace Sys2Proof.Machine

/-- The effect of a command's perform step, before its completion. -/
def effectOf : Instr → State → State
  | .nop => id
  | .rotate => State.rotateBuffer
  | .clear => State.clearBuffer
  | .getpix x y => State.readPixel x y
  | .setpix x y v => State.writePixel x y v

/-- The coordinates of a command are in range. -/
def rangeOk (b : Build) : Instr → Bool
  | .nop => true
  | .rotate => true
  | .clear => true
  | .getpix x y => coordOk b x y
  | .setpix x y _ => coordOk b x y

/-- The buffers a command uses, with source and destination at these bases, are in bounds. -/
def boundsOk (b : Build) (src dst : Word) : Instr → Bool
  | .nop => true
  | .rotate => regionOk b src && regionOk b dst
  | .clear => regionOk b dst
  | .getpix _ _ => regionOk b src
  | .setpix _ _ _ => regionOk b dst

theorem command_busy (s : State) (i : Instr) (r b f : Bool) (e : State → State) (h : s.busy = true) :
    s.command i r b f e = if f then .next (e s).complete else .fault .engineOutsideBuffer := by
  simp [State.command, h]

theorem command_idle (s : State) (i : Instr) (r b f : Bool) (e : State → State) (h : s.busy = false) :
    s.command i r b f e =
      if !r then .next (s.reject .range) else if !b then .next (s.reject .bounds) else .next (s.accept (s.latch i)) := by
  simp [State.command, h]

/-- The perform step of a command in flight. -/
theorem exec_busy (i : Instr) (s : State) (h : s.busy = true) :
    exec i s =
      if rangeOk s.build i && boundsOk s.build s.lcmd.sb s.lcmd.db i then .next (effectOf i s).complete
      else .fault .engineOutsideBuffer := by
  cases i <;>
    simp [exec, execNop, execRotate, execClear, execGetpix, execSetpix, command_busy, h, rangeOk, boundsOk, effectOf]

/-- The submission of a command to the idle block. -/
theorem exec_idle (i : Instr) (s : State) (h : s.busy = false) :
    exec i s =
      if !rangeOk s.build i then .next (s.reject .range)
      else if !boundsOk s.build s.srcBase s.dstBase i then .next (s.reject .bounds)
      else .next (s.accept (s.latch i)) := by
  cases i <;>
    simp [exec, execNop, execRotate, execClear, execGetpix, execSetpix, command_idle, h, rangeOk, boundsOk]

/-- What a command has done, if it answers a next state. -/
theorem exec_next {i : Instr} {s t : State} (h : exec i s = .next t) :
    (s.busy = true ∧ rangeOk s.build i = true ∧ boundsOk s.build s.lcmd.sb s.lcmd.db i = true ∧
      t = (effectOf i s).complete) ∨
    (s.busy = false ∧ rangeOk s.build i = false ∧ t = s.reject .range) ∨
    (s.busy = false ∧ rangeOk s.build i = true ∧ boundsOk s.build s.srcBase s.dstBase i = false ∧
      t = s.reject .bounds) ∨
    (s.busy = false ∧ rangeOk s.build i = true ∧ boundsOk s.build s.srcBase s.dstBase i = true ∧
      t = s.accept (s.latch i)) := by
  cases hb : s.busy with
  | true =>
    rw [exec_busy i s hb] at h
    split at h
    · rename_i hf
      simp only [Bool.and_eq_true] at hf
      exact .inl ⟨rfl, hf.1, hf.2, by simpa using h.symm⟩
    · cases h
  | false =>
    rw [exec_idle i s hb] at h
    refine .inr ?_
    split at h
    · rename_i hr
      exact .inl ⟨rfl, by simpa using hr, by simpa using h.symm⟩
    · rename_i hr
      split at h
      · rename_i hbd
        exact .inr (.inl ⟨rfl, by simpa using hr, by simpa using hbd, by simpa using h.symm⟩)
      · rename_i hbd
        exact .inr (.inr ⟨rfl, by simpa using hr, by simpa using hbd, by simpa using h.symm⟩)

/-- An effect changes memory, SCR, RESULT, INVAL, inval_o and the draw counter at most. -/
theorem effectOf_shape (i : Instr) (s : State) :
    effectOf i s =
      { s with
        mem := (effectOf i s).mem
        scr := (effectOf i s).scr
        pixel := (effectOf i s).pixel
        inval := s.inval || i.op == 0x1#4
        invalO := s.invalO || i.op == 0x1#4
        draws := (effectOf i s).draws } := by
  cases i with
  | nop => simp [effectOf, Instr.op]
  | rotate =>
    simp only [effectOf, State.rotateBuffer, Instr.op]
    split <;> simp [State.invalidate, State.scrambleMem, State.scrambleScr]
  | clear =>
    simp only [effectOf, State.clearBuffer, Instr.op]
    split <;> simp [State.scrambleMem]
  | getpix x y =>
    simp only [effectOf, State.readPixel, Instr.op]
    split <;> simp
  | setpix x y v =>
    simp only [effectOf, State.writePixel, Instr.op]
    split <;> simp [State.scrambleMem]

/-- Only ROTATE writes SCR (10_state.md R37). -/
theorem effectOf_scr (i : Instr) (s : State) (h : i ≠ .rotate) : (effectOf i s).scr = s.scr := by
  cases i with
  | rotate => exact absurd rfl h
  | nop => rfl
  | clear => simp only [effectOf, State.clearBuffer]; split <;> simp
  | getpix x y => simp only [effectOf, State.readPixel]; split <;> simp
  | setpix x y v => simp only [effectOf, State.writePixel]; split <;> simp

/-- Only GETPIX writes RESULT (10_state.md R36). -/
theorem effectOf_pixel (i : Instr) (s : State) (h : i.op ≠ 0x3#4) : (effectOf i s).pixel = s.pixel := by
  cases i with
  | getpix x y => exact absurd rfl h
  | nop => rfl
  | rotate => simp only [effectOf, State.rotateBuffer]; split <;> simp
  | clear => simp only [effectOf, State.clearBuffer]; split <;> simp
  | setpix x y v => simp only [effectOf, State.writePixel]; split <;> simp

/-- What holds of surface memory and is kept by every write inside it is kept by the perform step of a fitting
command. -/
theorem effectOf_mem_keeps (i : Instr) (s : State) (hv : s.build.valid = true) (hr : rangeOk s.build i = true)
    (hb : boundsOk s.build s.lcmd.sb s.lcmd.db i = true) (P : Memory → Prop) (hP : P s.mem)
    (hw : ∀ m a v, a < s.build.memBytes → P m → P (m.write a v)) : P (effectOf i s).mem := by
  have hs : ∀ (r : Span), r.start + r.len ≤ s.build.memBytes → ∀ m d, P m → P (m.scramble r.start r.len d) :=
    fun r h m d hm => forRange_keeps P _ _ _ hm fun i hi x hx => hw _ _ _ (by omega) hx
  have hc : ∀ st len, st + len ≤ s.build.memBytes → ∀ m : Memory, P m → P (m.clear st len) :=
    fun st len h m hm => forRange_keeps P _ _ _ hm fun i hi x hx => hw _ _ _ (by omega) hx
  cases i with
  | nop => exact hP
  | rotate =>
    simp only [boundsOk, regionOk, Bool.and_eq_true, decide_eq_true_eq] at hb
    simp only [effectOf, State.rotateBuffer]
    split
    · simp only [State.invalidate_mem, State.scrambleMem_mem, State.scrambleScr_mem]
      exact hs (region _ _) (by simp [region]; omega) _ _ hP
    · simp only [State.invalidate_mem, stampImage]
      refine forRange_keeps P _ _ _ (hc _ _ (by omega) _ hP) fun y hy m hm =>
        forRange_keeps P _ _ _ hm fun x hx m hm => ?_
      unfold stampPixel
      split
      · have hm' := rotMap_in_range s.build.n s.lcmd.d hx hy
        have := pixel_in_buffer _ hv hm'.1 hm'.2
        exact hw _ _ _ (by unfold byteAddr; omega) hm
      · exact hm
  | clear =>
    simp only [boundsOk, regionOk, decide_eq_true_eq] at hb
    simp only [effectOf, State.clearBuffer]
    split
    · simp only [State.scrambleMem_mem]
      exact hs (region _ _) (by simp [region]; omega) _ _ hP
    · exact hc _ _ (by omega) _ hP
  | getpix x y => simp only [effectOf, State.readPixel]; split <;> exact hP
  | setpix x y v =>
    simp only [boundsOk, regionOk, decide_eq_true_eq, rangeOk, coordOk, Bool.and_eq_true] at hb hr
    have := pixel_in_buffer _ hv hr.1 hr.2
    simp only [effectOf, State.writePixel]
    split
    · simp only [State.scrambleMem_mem]
      exact hs (pixelSpan _ _ _ _) (by simp [pixelSpan, byteAddr]; omega) _ _ hP
    · exact hw _ _ _ (by unfold byteAddr; omega) hP

/-- What holds of SCR and is kept by every write inside it is kept by a perform step. -/
theorem effectOf_scr_keeps (i : Instr) (s : State) (P : Memory → Prop) (hP : P s.scr)
    (hw : ∀ m a v, a < s.build.bufBytes → P m → P (m.write a v)) : P (effectOf i s).scr := by
  by_cases h : i = .rotate
  · subst h
    simp only [effectOf, State.rotateBuffer]
    split
    · simp only [State.invalidate_scr, State.scrambleMem_scr, State.scrambleScr_scr]
      exact forRange_keeps P _ _ _ hP fun i hi x hx => hw _ _ _ (by omega) hx
    · exact forRange_keeps P _ _ _ hP fun i hi x hx => hw _ _ _ (by omega) hx
  · rw [effectOf_scr _ _ h]; exact hP

/-! The tests of 60_exceptions.md R116 and R118 as propositions, and the latched command. -/

theorem boundsOk_iff (b : Build) (src dst : Word) (i : Instr) :
    boundsOk b src dst i = true ↔ buffersInBounds b src dst i := by
  cases i <;> simp [boundsOk, buffersInBounds, regionOk]

theorem rangeOk_iff (b : Build) (i : Instr) : rangeOk b i = true ↔ ¬outOfRange b.n i := by
  cases i <;> simp [rangeOk, outOfRange, coordOk]

theorem fits_of_instr (b : Build) {l : Latched} {i : Instr} (h : l.instr = some i) :
    l.fits b = (rangeOk b i && boundsOk b l.sb l.db i) := by
  unfold Latched.fits
  rw [h]
  cases i <;> simp [rangeOk, boundsOk]

/-- The command that acceptance latches is the command that the engine performs. -/
theorem latch_instr (s : State) (i : Instr) (hw : i.wf = true) : (s.latch i).instr = some i := by
  cases i <;>
    simp [State.latch, Latched.instr, Instr.op, Instr.xOperand, Instr.yOperand, Instr.vOperand, Instr.wf] at hw ⊢
  all_goals omega

theorem instr_op {l : Latched} {i : Instr} (h : l.instr = some i) : i.op = l.op := by
  unfold Latched.instr at h
  split at h; · cases h; simp [Instr.op, *]
  split at h; · cases h; simp [Instr.op, *]
  split at h; · cases h; simp [Instr.op, *]
  split at h; · cases h; simp [Instr.op, *]
  split at h; · cases h; simp [Instr.op, *]
  cases h

theorem instr_wf {l : Latched} {i : Instr} (h : l.instr = some i) : i.wf = true := by
  unfold Latched.instr at h
  split at h; · cases h; rfl
  split at h; · cases h; rfl
  split at h; · cases h; rfl
  split at h; · cases h; simp [Instr.wf]; omega
  split at h; · cases h; simp [Instr.wf]; omega
  cases h

end Sys2Proof.Machine
end

