-- ==== Sys2Proof/Laws/PerInstr.lean ====
section
/-! SUPPORT. Statements about every command, one lemma per constructor of `Instr`: the word of a well-formed command
holds its OP and its operands in the fields of 30_encoding.md R68. -/

namespace Sys2Proof.Laws.EncodedFields

/-- Each field of the word reads back as the command's. -/
def Statement (i : Instr) : Prop :=
  i.wf = true →
    opField (encode i) = i.op ∧ xField (encode i) = i.xOperand ∧ yField (encode i) = i.yOperand ∧
      vField (encode i) = i.vOperand

theorem nop : Statement .nop := fun _ => by decide

theorem rotate : Statement .rotate := fun _ => by decide

theorem clear : Statement .clear := fun _ => by decide

theorem getpix (x y : Nat) : Statement (.getpix x y) := fun h => by
  simp only [Instr.wf, Bool.and_eq_true, decide_eq_true_eq] at h
  simp only [encode, opField_packFields, xField_packFields, yField_packFields, vField_packFields, BitVec.toNat_ofNat,
    Instr.xOperand, Instr.yOperand]
  refine ⟨trivial, Nat.mod_eq_of_lt h.1, Nat.mod_eq_of_lt h.2, trivial⟩

theorem setpix (x y : Nat) (v : Bool) : Statement (.setpix x y v) := fun h => by
  simp only [Instr.wf, Bool.and_eq_true, decide_eq_true_eq] at h
  simp only [encode, opField_packFields, xField_packFields, yField_packFields, vField_packFields, BitVec.toNat_ofNat,
    Instr.xOperand, Instr.yOperand]
  refine ⟨trivial, Nat.mod_eq_of_lt h.1, Nat.mod_eq_of_lt h.2, trivial⟩

end Sys2Proof.Laws.EncodedFields
end

