-- ==== Sys2Proof/Laws/Rotate.lean ====
section
/-! SUPPORT. Stages 2 to 4 of ROTATE bit by bit (41_rotate.md R94 to R97): a stamped pixel adds at most one 1 bit, and
no bit ever falls. -/

namespace Sys2Proof.Machine

/-- The source pixel (x, y) of the snapshot is 1, and the map puts it at bit `j` of the byte at `a`. -/
def stampsBit (b : Build) (scr : Memory) (d : Bool) (db a j x y : Nat) : Prop :=
  extractBit (scr.readScr (y * b.stride + x / 8)) x = true ∧
    a = byteAddr b db (rotMap b.n d x y).1 (rotMap b.n d x y).2 ∧ j = 7 - (rotMap b.n d x y).1 % 8

theorem putBit_set_bit (b : Byte) (x j : Nat) (hj : j < 8) :
    (putBit b x true).getLsbD j = true ↔ b.getLsbD j = true ∨ j = 7 - x % 8 := by
  unfold putBit bitMask bitPos
  have h : 7 - x % 8 < 8 := by omega
  generalize 7 - x % 8 = k at *
  simp only [if_true, BitVec.getLsbD_or, BitVec.getLsbD_shiftLeft]
  interval_cases k <;> interval_cases j <;> simp

theorem stampPixel_bit (b : Build) (scr : Memory) (d : Bool) (db x y : Nat) (m : Memory) (a j : Nat) (hj : j < 8) :
    ((stampPixel b scr d db x y m).read a).getLsbD j = true ↔
      (m.read a).getLsbD j = true ∨ stampsBit b scr d db a j x y := by
  unfold stampPixel stampsBit
  split
  · rename_i h
    rw [Memory.read_write]
    split
    · rename_i ha
      rw [putBit_set_bit _ _ _ hj]
      simp [ha, h]
    · rename_i ha
      simp [ha]
  · rename_i h
    simp [h]

/-- A loop of steps that each add bits adds the bits of all of them. -/
theorem forRange_bit (f : Nat → Memory → Memory) (p : Nat → Prop) (a j n : Nat) (m : Memory)
    (hf : ∀ k m', ((f k m').read a).getLsbD j = true ↔ (m'.read a).getLsbD j = true ∨ p k) :
    ((forRange n f m).read a).getLsbD j = true ↔ (m.read a).getLsbD j = true ∨ ∃ k, k < n ∧ p k := by
  induction n with
  | zero => simp
  | succ k ih =>
    rw [forRange_succ, hf, ih]
    constructor
    · rintro ((h | ⟨i, hi, h⟩) | h)
      · exact .inl h
      · exact .inr ⟨i, by omega, h⟩
      · exact .inr ⟨k, by omega, h⟩
    · rintro (h | ⟨i, hi, h⟩)
      · exact .inl (.inl h)
      · rcases Nat.lt_succ_iff_lt_or_eq.1 hi with hk | rfl
        · exact .inl (.inr ⟨i, hk, h⟩)
        · exact .inr h

/-- All of stages 2 to 4. -/
theorem stampImage_bit (b : Build) (scr : Memory) (d : Bool) (db : Nat) (m : Memory) (a j : Nat) (hj : j < 8) :
    ((stampImage b scr d db m).read a).getLsbD j = true ↔
      (m.read a).getLsbD j = true ∨ ∃ y, y < b.n ∧ ∃ x, x < b.n ∧ stampsBit b scr d db a j x y :=
  forRange_bit _ _ a j b.n m fun y m' =>
    forRange_bit _ _ a j b.n m' fun x m'' => stampPixel_bit b scr d db x y m'' a j hj

end Sys2Proof.Machine
end

