-- ==== Sys2Proof/Laws/Step.lean ====
section
/-! SUPPORT. Everything a step can do, said once: the inversion lemmas of the step, of each agent's turn, of a register
write and of a submission. -/

namespace Sys2Proof.Machine

theorem step_of_runs (s : State) (h : s.runs = true) :
    step s =
      match s.turn with
      | .host => s.begin.hostTurn
      | .engine => s.begin.engineTurn
      | .reset level => .next (s.begin.resetTurn level) := by
  simp only [State.runs, Bool.and_eq_true, Bool.not_eq_true'] at h
  simp only [step, h.1, h.2]
  cases s.turn <;> rfl

theorem step_host (s : State) (h : s.runs = true) (ht : s.turn = .host) : step s = s.begin.hostTurn := by
  rw [step_of_runs s h, ht]

theorem step_engine (s : State) (h : s.runs = true) (ht : s.turn = .engine) : step s = s.begin.engineTurn := by
  rw [step_of_runs s h, ht]

theorem step_reset (s : State) (h : s.runs = true) (level : Bool) (ht : s.turn = .reset level) :
    step s = .next (s.begin.resetTurn level) := by
  rw [step_of_runs s h, ht]

/-- What has moved, if a step answers a next state. -/
theorem step_next {s t : State} (h : step s = .next t) :
    s.runs = true ∧
    ((s.turn = .host ∧ s.begin.hostTurn = .next t) ∨ (s.turn = .engine ∧ s.begin.engineTurn = .next t) ∨
      ∃ level, s.turn = .reset level ∧ t = s.begin.resetTurn level) := by
  have hr : s.runs = true := by
    unfold step at h
    split at h
    · cases h
    · split at h
      · cases h
      · rename_i h1 h2
        simp [State.runs, Bool.eq_false_iff.mpr h1] at h2 ⊢
        exact h2
  refine ⟨hr, ?_⟩
  rw [step_of_runs s hr] at h
  cases ht : s.turn with
  | host => rw [ht] at h; exact .inl ⟨rfl, h⟩
  | engine => rw [ht] at h; exact .inr (.inl ⟨rfl, h⟩)
  | reset level => rw [ht] at h; exact .inr (.inr ⟨level, rfl, by simpa using h.symm⟩)

/-! Names. -/

theorem lookup_filter_ne (l : List (Nat × Word)) {name k : Nat} (h : k ≠ name) :
    (l.filter fun p => p.1 != name).lookup k = l.lookup k := by
  induction l with
  | nil => rfl
  | cons p ps ih =>
    obtain ⟨q, w⟩ := p
    by_cases hq : q = name
    · subst hq
      have hk : (k == q) = false := by simpa using h
      simp [List.lookup_cons, ih, hk]
    · simp only [List.filter_cons, bne_iff_ne, ne_eq, hq, not_false_eq_true, if_true, List.lookup_cons, ih]

@[simp] theorem nameValue_bind_same (s : State) (name : Nat) (v : Word) :
    (s.bind name v).nameValue name = some v := by
  simp [State.nameValue, State.bind]

/-- Binding a name leaves the others alone. -/
theorem nameValue_bind_other (s : State) {name k : Nat} (v : Word) (h : k ≠ name) :
    (s.bind name v).nameValue k = s.nameValue k := by
  have hk : (k == name) = false := by simpa using h
  simp only [State.nameValue, State.bind, List.lookup_cons, hk]
  exact lookup_filter_ne s.names h

@[simp] theorem nextOp_begin (s : State) : s.begin.nextOp = s.nextOp := rfl

theorem begin_advance (s : State) : s.begin.advance = s.afterOp := rfl

/-- What the engine has done with its turn. -/
theorem engineTurn_next {s t : State} (h : s.engineTurn = .next t) :
    (s.busy = false ∧ t = s) ∨ (s.busy = true ∧ ∃ i, s.lcmd.instr = some i ∧ exec i s = .next t) := by
  unfold State.engineTurn at h
  cases hb : s.busy with
  | false => simp [hb] at h; exact .inl ⟨rfl, h.symm⟩
  | true =>
    simp only [hb, if_true] at h
    cases hi : s.lcmd.instr with
    | none => simp [hi] at h
    | some i => simp only [hi] at h; exact .inr ⟨rfl, i, rfl, h⟩

/-- What a submission has done (60_exceptions.md R116). -/
theorem submit_next {s t : State} {w : Word} (h : s.submit w = .next t) :
    (s.busy = true ∧ t = s.reject .busy) ∨
    (s.busy = false ∧ (∃ e, decode w = .error e) ∧ t = s.reject .illegal) ∨
    (s.busy = false ∧ ∃ i, decode w = .ok i ∧ exec i s = .next t) := by
  unfold State.submit at h
  cases hb : s.busy with
  | true => simp [hb] at h; exact .inl ⟨rfl, h.symm⟩
  | false =>
    simp only [hb] at h
    cases hd : decode w with
    | error e => simp [hd] at h; exact .inr (.inl ⟨rfl, ⟨e, rfl⟩, h.symm⟩)
    | ok i => simp [hd] at h; exact .inr (.inr ⟨rfl, i, rfl, h⟩)

/-- What a register write has done (10_state.md section 3). -/
theorem writeReg_next {s t : State} {r : Reg} {v : Word} (h : s.writeReg r v = .next t) :
    t = s ∨
    (s.rst = false ∧
      ((r = .ctrl ∧ t = s.writeCtrl v) ∨ (r = .srcBase ∧ t = { s with srcBase := v }) ∨
        (r = .dstBase ∧ t = { s with dstBase := v }) ∨ (r = .status ∧ t = s.writeStatus v) ∨
        (r = .cmd ∧ s.submit v = .next t))) := by
  unfold State.writeReg at h
  cases hr : s.rst with
  | true => simp [hr] at h; exact .inl h.symm
  | false => cases r <;> simp [hr] at h <;> simp [h, eq_comm]

theorem regAt_cmd {off : BitVec 6} (h : regAt off = .cmd) : off = 0x18#6 := by
  revert h; revert off; decide

theorem regAt_status {off : BitVec 6} (h : regAt off = .status) : off = 0x1C#6 := by
  revert h; revert off; decide

/-- What the host has done with its turn, if it answers a next state: nothing, a register write, something that
leaves every register and memory alone, or a byte access to surface memory. -/
theorem hostTurn_next {s t : State} (h : s.hostTurn = .next t) :
    (s.nextOp = none ∧ t = s) ∨
    (∃ off v, s.nextOp = some (.regWrite off .word v) ∧ s.advance.writeReg (regAt off) v = .next t) ∨
    (∃ i, i.wf = true ∧ s.nextOp = some (.cmd i) ∧ s.advance.writeReg .cmd (encode i) = .next t) ∨
    (∃ pc d ns rf, t = { s with hostPc := pc, rdata := d, names := ns, refused := rf } ∧
      (s.refused = true → rf = true) ∧ s.nextOp ≠ none) ∨
    (∃ a v, s.nextOp = some (.memWrite a v) ∧ s.advance.hostMemWrite a v = .next t) ∨
    (∃ a name, s.nextOp = some (.memRead a name) ∧ s.advance.hostMemRead a name = .next t) := by
  unfold State.hostTurn at h
  cases ho : s.nextOp with
  | none => simp [ho] at h; exact .inl ⟨rfl, h.symm⟩
  | some o =>
    simp only [ho] at h
    refine .inr ?_
    cases o with
    | regWrite off size v =>
      simp only [State.hostOp] at h
      split at h
      · rename_i hw
        have : size = .word := by simp [wordAccess] at hw; exact hw.2
        subst this
        exact .inl ⟨off, v, rfl, h⟩
      · refine .inr (.inr (.inl ⟨s.hostPc + 1, s.rdata, s.names, true, ?_, by simp, by simp⟩))
        simpa [State.advance] using h.symm
    | regRead off size name =>
      simp only [State.hostOp] at h
      split at h
      · refine .inr (.inr (.inl ⟨s.hostPc + 1, _, _, s.refused, by
          simpa [State.advance, State.bind] using h.symm, by simp, by simp⟩))
      · refine .inr (.inr (.inl ⟨s.hostPc + 1, s.rdata, s.names, true, ?_, by simp, by simp⟩))
        simpa [State.advance] using h.symm
    | cmd i =>
      simp only [State.hostOp] at h
      split at h
      · rename_i hw; exact .inr (.inl ⟨i, hw, rfl, h⟩)
      · cases h
    | memWrite a b => exact .inr (.inr (.inr (.inl ⟨a, b, rfl, h⟩)))
    | memRead a name => exact .inr (.inr (.inr (.inr ⟨a, name, rfl, h⟩)))
    | wait =>
      simp only [State.hostOp] at h
      refine .inr (.inr (.inl ⟨t.hostPc, t.rdata, t.names, s.refused, ?_, by simp, by simp⟩))
      split at h <;> (cases h; rfl)
    | label l =>
      simp only [State.hostOp] at h
      exact .inr (.inr (.inl ⟨s.hostPc + 1, s.rdata, s.names, s.refused, by
        simpa [State.advance] using h.symm, by simp, by simp⟩))
    | branchNZ name mask l =>
      simp only [State.hostOp] at h
      refine .inr (.inr (.inl ⟨t.hostPc, s.rdata, s.names, s.refused, ?_, by simp, by simp⟩))
      split at h
      · split at h <;> (cases h; rfl)
      · cases h

/-! All a step can do. -/

/-- The cases of a step that answers a next state `t`, each with what it makes of `s`. -/
inductive StepCase (s t : State) : Prop where
  /-- The host has done something that leaves every register, LCMD and SCR alone: it may have touched a byte of surface
  memory, read something, or recorded a hazard. -/
  | hostOther (ht : s.turn = .host) (pc : Nat) (d : Word) (ns : List (Nat × Word)) (rf : Bool)
      (fs : List FaultRecord) (rc : Bool) (dr : Nat) (me : Memory) (hf : ∀ r ∈ s.faults, r ∈ fs)
      (eq : t = { s.begin with
        hostPc := pc, rdata := d, names := ns, refused := rf, faults := fs, raced := rc, draws := dr, mem := me })
  | engineIdle (ht : s.turn = .engine) (hb : s.busy = false) (eq : t = s.begin)
  | writeCtrl (v : Word) (hw : s.hostWrites 0x0C#6 v) (eq : t = s.afterOp.writeCtrl v)
  | writeSrc (v : Word) (hw : s.hostWrites 0x10#6 v) (eq : t = { s.afterOp with srcBase := v })
  | writeDst (v : Word) (hw : s.hostWrites 0x14#6 v) (eq : t = { s.afterOp with dstBase := v })
  | writeStatus (v : Word) (hw : s.hostWrites 0x1C#6 v) (eq : t = s.afterOp.writeStatus v)
  | rejected (r : Reject) (w : Word) (hw : s.hostCommands w) (eq : t = s.afterOp.reject r)
  | accepted (i : Instr) (w : Word) (hw : s.hostCommands w) (hb : s.busy = false) (hd : decode w = .ok i)
      (hr : rangeOk s.build i = true) (hi : boundsOk s.build s.srcBase s.dstBase i = true)
      (eq : t = s.afterOp.accept (s.latch i))
  | performed (i : Instr) (ht : s.turn = .engine) (hb : s.busy = true) (hl : s.lcmd.instr = some i)
      (hr : rangeOk s.build i = true) (hi : boundsOk s.build s.lcmd.sb s.lcmd.db i = true)
      (eq : t = (effectOf i s.begin).complete)
  | asserted (ht : s.resets) (eq : t = s.begin.assertReset)
  | released (ht : s.turn = .reset false) (eq : t = { s.begin with rst := false })

theorem regAt_ctrl {off : BitVec 6} (h : regAt off = .ctrl) : off = 0x0C#6 := by
  revert h; revert off; decide

theorem regAt_srcBase {off : BitVec 6} (h : regAt off = .srcBase) : off = 0x10#6 := by
  revert h; revert off; decide

theorem regAt_dstBase {off : BitVec 6} (h : regAt off = .dstBase) : off = 0x14#6 := by
  revert h; revert off; decide

theorem stepCase_submit {s t : State} {w : Word} (hw : s.hostCommands w) (h : s.afterOp.submit w = .next t) :
    StepCase s t := by
  rcases submit_next h with ⟨hb, rfl⟩ | ⟨hb, -, rfl⟩ | ⟨hb, i, hd, hx⟩
  · exact .rejected _ w hw rfl
  · exact .rejected _ w hw rfl
  · rcases exec_next hx with ⟨hb', -, -, -⟩ | ⟨-, -, rfl⟩ | ⟨-, -, -, rfl⟩ | ⟨-, h1, h2, rfl⟩
    · rw [hb] at hb'; cases hb'
    · exact .rejected _ w hw rfl
    · exact .rejected _ w hw rfl
    · exact .accepted i w hw hb hd h1 h2 rfl

theorem stepCase_unchanged {s : State} (ht : s.turn = .host) (pc : Nat) :
    StepCase s { s.begin with hostPc := pc } :=
  .hostOther ht pc s.rdata s.names s.refused s.faults s.raced s.draws s.mem (fun _ h => h) rfl

theorem stepCase_writeReg {s t : State} {off : BitVec 6} {v : Word} (ht : s.turn = .host)
    (hn : s.nextOp = some (.regWrite off .word v)) (h : s.afterOp.writeReg (regAt off) v = .next t) :
    StepCase s t := by
  rcases writeReg_next h with rfl | ⟨hr, ⟨h1, rfl⟩ | ⟨h1, rfl⟩ | ⟨h1, rfl⟩ | ⟨h1, rfl⟩ | ⟨h1, hs⟩⟩
  · exact stepCase_unchanged ht _
  · exact .writeCtrl v ⟨ht, hr, regAt_ctrl h1 ▸ hn⟩ rfl
  · exact .writeSrc v ⟨ht, hr, regAt_srcBase h1 ▸ hn⟩ rfl
  · exact .writeDst v ⟨ht, hr, regAt_dstBase h1 ▸ hn⟩ rfl
  · exact .writeStatus v ⟨ht, hr, regAt_status h1 ▸ hn⟩ rfl
  · exact stepCase_submit ⟨ht, hr, .inl (regAt_cmd h1 ▸ hn)⟩ hs

theorem stepCase_hostMem {s t : State} (ht : s.turn = .host)
    (h : (∃ a v, s.begin.advance.hostMemWrite a v = .next t) ∨ ∃ a name, s.begin.advance.hostMemRead a name = .next t) :
    StepCase s t := by
  have hgrow : ∀ (u : State) (f : FaultRecord), ∀ r ∈ u.faults, r ∈ (u.recordHazard f).faults := by
    intro u f r hr
    simp only [State.recordHazard_faults]
    split
    · exact hr
    · exact List.mem_cons_of_mem _ hr
  rcases h with ⟨a, v, h⟩ | ⟨a, name, h⟩
  · unfold State.hostMemWrite at h
    split at h
    · simp only at h
      split at h <;> cases h
      · exact .hostOther ht (s.hostPc + 1) s.rdata s.names s.refused _ _ _ _ (hgrow s.begin.advance _) rfl
      · exact .hostOther ht (s.hostPc + 1) s.rdata s.names s.refused _ _ _ _ (fun _ h => h) rfl
    · cases h
  · unfold State.hostMemRead at h
    split at h
    · split at h <;> cases h
      · exact .hostOther ht (s.hostPc + 1) s.rdata _ s.refused _ _ _ _ (hgrow s.begin.advance _) rfl
      · exact .hostOther ht (s.hostPc + 1) s.rdata _ s.refused _ _ _ _ (fun _ h => h) rfl
    · cases h

/-- A step that answers a next state is one of the cases. -/
theorem step_cases {s t : State} (h : step s = .next t) : StepCase s t := by
  obtain ⟨-, ⟨ht, hh⟩ | ⟨ht, he⟩ | ⟨level, ht, rfl⟩⟩ := step_next h
  · rcases hostTurn_next hh with ⟨-, rfl⟩ | ⟨off, v, hn, hw⟩ | ⟨i, hwf, hn, hw⟩ | ⟨pc, d, ns, rf, rfl, -, -⟩ |
      ⟨a, v, -, hw⟩ | ⟨a, n, -, hw⟩
    · exact stepCase_unchanged ht s.hostPc
    · exact stepCase_writeReg ht hn hw
    · rcases writeReg_next hw with rfl | ⟨hr, ⟨h1, -⟩ | ⟨h1, -⟩ | ⟨h1, -⟩ | ⟨h1, -⟩ | ⟨-, hs⟩⟩
      · exact stepCase_unchanged ht _
      · cases h1
      · cases h1
      · cases h1
      · cases h1
      · exact stepCase_submit ⟨ht, hr, .inr ⟨i, hwf, hn, rfl⟩⟩ hs
    · exact .hostOther ht pc d ns rf s.faults s.raced s.draws s.mem (fun _ h => h) rfl
    · exact stepCase_hostMem ht (.inl ⟨a, v, hw⟩)
    · exact stepCase_hostMem ht (.inr ⟨a, n, hw⟩)
  · rcases engineTurn_next he with ⟨hb, rfl⟩ | ⟨hb, i, hi, hx⟩
    · exact .engineIdle ht hb rfl
    · rcases exec_next hx with ⟨-, h1, h2, rfl⟩ | ⟨hb', -, -⟩ | ⟨hb', -, -⟩ | ⟨hb', -, -⟩
      · exact .performed i ht hb hi h1 h2 rfl
      all_goals (rw [hb'] at hb; cases hb)
  · cases level
    · exact .released ht rfl
    · exact .asserted ht rfl

end Sys2Proof.Machine
end

