-- ==== Sys2Proof/Tests/Slice0.lean ====
section
/-! SUPPORT. The model's own tests: ill-formed commands, the words of spec/95_test_vectors.md section 2.2 bit by bit, one
or two vectors of its sections 2.3 to 2.9 per command, and one witness per obligation that has hypotheses, which shows
a concrete state and operands that meet all of them. Every expected value is the spec's. -/

namespace Sys2Proof.Tests

open Sys2Proof.Machine

/-! Helpers: a small block, a host operation, a command in flight, bytes in memory. -/

/-- N = 8, STRIDE = 1, 256 bytes of surface memory, after reset. -/
def small : State := { State.reset with build := { n := 8, strideAlign := 1, memBytes := 0x100 } }

/-- N = 10, STRIDE = 2, 256 bytes of surface memory (95_test_vectors.md 2.4). -/
def ten : State := { State.reset with build := { n := 10, strideAlign := 1, memBytes := 0x100 } }

/-- N = 68, STRIDE = 12, 4096 bytes of surface memory (95_test_vectors.md 2.8). -/
def wide : State := { State.reset with build := { n := 68, strideAlign := 4, memBytes := 0x1000 } }

/-- The host is about to do `o`. -/
def doing (o : HostOp) (s : State) : State := { s with prog := [o], hostPc := 0, turns := [.host] }

/-- The command `i` has been accepted. -/
def flying (i : Instr) (s : State) : State := s.accept (s.latch i)

/-- The state after a step, the same state where there is none. -/
def after (s : State) : State :=
  match step s with
  | .next t => t
  | .fault _ => s
  | .refused _ => s

/-- A step answers a next state. -/
def steps (s : State) : Bool :=
  match step s with
  | .next _ => true
  | .fault _ => false
  | .refused _ => false

theorem step_after (s : State) (h : steps s = true) : step s = .next (after s) := by
  unfold steps at h
  unfold after
  split at h <;> simp_all

/-- The state after a meaning, the same state where there is none. -/
def did (i : Instr) (s : State) : State :=
  match exec i s with
  | .next t => t
  | .fault _ => s
  | .refused _ => s

/-- A meaning answers a next state. -/
def does (i : Instr) (s : State) : Bool :=
  match exec i s with
  | .next _ => true
  | .fault _ => false
  | .refused _ => false

theorem exec_did (i : Instr) (s : State) (h : does i s = true) : exec i s = .next (did i s) := by
  unfold does at h
  unfold did
  split at h <;> simp_all

/-- The bytes `bs` from address `a` on. -/
def bytesAt (a : Nat) : List Byte → Memory
  | [] => []
  | b :: bs => (bytesAt (a + 1) bs).write a b

/-- The `n` bytes from address `a` on. -/
def dump (m : Memory) (a n : Nat) : List Byte := (List.range n).map fun i => m.read (a + i)

/-! Ill-formed commands: each check of `Instr.wf` refuses one (30_encoding.md R70, R77). -/

theorem test_wf_getpix_x : (Instr.getpix 256 0).wf = false := by decide
theorem test_wf_getpix_y : (Instr.getpix 0 256).wf = false := by decide
theorem test_wf_setpix_x : (Instr.setpix 256 0 true).wf = false := by decide
theorem test_wf_setpix_y : (Instr.setpix 0 256 true).wf = false := by decide
theorem test_wf_edge : (Instr.setpix 255 255 true).wf = true ∧ (Instr.getpix 255 255).wf = true := by decide

/-! Decoding: words written out bit by bit from the encoding column of 30_encoding.md R71, and the words of
95_test_vectors.md 2.2. -/

theorem test_decode_nop : decode 0b00000000000000000000000000000000#32 = .ok .nop := by decide
theorem test_decode_rotate : decode 0b00000000000000000000000000000001#32 = .ok .rotate := by decide
theorem test_decode_clear : decode 0b00000000000000000000000000000010#32 = .ok .clear := by decide
theorem test_decode_getpix : decode 0b00000101000000110000000000000011#32 = .ok (.getpix 3 5) := by decide
theorem test_decode_setpix : decode 0b00000101000000110000000100000100#32 = .ok (.setpix 3 5 true) := by decide
theorem test_decode_setpix_clear : decode 0b00000101000000110000000000000100#32 = .ok (.setpix 3 5 false) := by decide
theorem test_decode_corners :
    decode 0xFFFF0104#32 = .ok (.setpix 255 255 true) ∧ decode 0x00000004#32 = .ok (.setpix 0 0 false) ∧
      decode 0x00000003#32 = .ok (.getpix 0 0) := by decide
theorem test_decode_illegal_op :
    decode 0x00000005#32 = .error (.reservedOp 5#4) ∧ decode 0x0000000F#32 = .error (.reservedOp 15#4) ∧
      decode 0xFFFFFFFF#32 = .error (.reservedOp 15#4) ∧ decode 0x0000FFFF#32 = .error (.reservedOp 15#4) := by decide
theorem test_decode_illegal_fixed :
    decode 0x00000010#32 = .error (.mustBeZero 0#4) ∧ decode 0x00000011#32 = .error (.mustBeZero 1#4) ∧
      decode 0x00000101#32 = .error (.mustBeZero 1#4) ∧ decode 0x80000001#32 = .error (.mustBeZero 1#4) ∧
      decode 0x00010002#32 = .error (.mustBeZero 2#4) := by decide
theorem test_decode_illegal_pixel :
    decode 0x00000103#32 = .error (.mustBeZero 3#4) ∧ decode 0x05030204#32 = .error (.mustBeZero 4#4) ∧
      decode 0x00008004#32 = .error (.mustBeZero 4#4) := by decide
theorem test_encode :
    encode (.setpix 3 5 true) = 0x05030104#32 ∧ encode (.getpix 7 0) = 0x00070003#32 ∧
      encode .clear = 0x00000002#32 ∧ encode .rotate = 0x00000001#32 ∧ encode .nop = 0x00000000#32 := by decide
theorem test_table_word :
    decodeTableWord 32 0x05030104 = some (.setpix 3 5 true) ∧ decodeTableWord 32 0x00000005 = none ∧
      decodeTableWord 8 0x01 = some .rotate := by decide

/-- The first step after reset runs the placed word (acceptance of SETPIX). -/
theorem test_fetch_word :
    (after (State.reset.withFetchWord 32 0x05030104)).lcmd.instr = some (.setpix 3 5 true) ∧
      (after (State.reset.withFetchWord 32 0x05030104)).busy = true := by decide

theorem test_assemble :
    assembleLine ['P', 'S', 'E', 'T', ' ', '0', ',', ' ', '0'] = some 0x00000104#32 ∧
      assembleLine ['G', 'E', 'T', 'P', 'I', 'X', ' ', '0', 'x', '7', ',', '0', ';', 'a'] = some 0x00070003#32 ∧
      assembleLine ['G', 'E', 'T', 'P', 'I', 'X', ' ', '2', '5', '6', ',', ' ', '0'] = none := by decide

/-! The datapath units and the parameters (95_test_vectors.md 2.1, 2.3). -/

theorem test_extract :
    extractBit 0x12#8 0 = false ∧ extractBit 0x12#8 3 = true ∧ extractBit 0x12#8 11 = true ∧
      extractBit 0x01#8 7 = true := by decide
theorem test_put :
    putBit 0x12#8 0 true = 0x92#8 ∧ putBit 0x12#8 3 false = 0x02#8 ∧ putBit 0xFF#8 7 false = 0xFE#8 ∧
      putBit 0x00#8 15 true = 0x01#8 := by decide
theorem test_parameters :
    wide.build.stride = 12 ∧ wide.build.bufBytes = 816 ∧ wide.readReg .param = 0x000C0044#32 ∧
      wide.readReg .memTop = 0x00000FFF#32 ∧ ten.readReg .param = 0x0002000A#32 ∧
      State.reset.readReg .param = 0x00200100#32 := by decide

/-! One step of each command (95_test_vectors.md 2.4 to 2.7). -/

/-- The memory of 95_test_vectors.md 2.4. -/
def mem24 : Memory :=
  bytesAt 0x40 [0x12, 0x3F, 0xA5, 0xC0, 0, 0, 0, 0, 0, 0, 0x0F, 0, 0, 0, 0, 0, 0, 0, 0x01, 0xFF]

/-- The setup of 95_test_vectors.md 2.4, 2.5 and 2.7. -/
def at24 : State := { ten with mem := mem24, srcBase := 0x40#32, dstBase := 0x40#32 }

theorem test_getpix_last : (after (flying (.getpix 9 9) at24)).resultWord = 0x00000001#32 := by decide
theorem test_getpix_padding : (after (flying (.getpix 8 0) at24)).resultWord = 0x00000000#32 := by decide
theorem test_setpix_set : (after (flying (.setpix 9 0 true) at24)).mem.read 0x41 = 0x7F#8 := by decide
theorem test_setpix_clear : (after (flying (.setpix 8 9 false) at24)).mem.read 0x53 = 0x7F#8 := by decide
theorem test_clear :
    dump (after (flying .clear { at24 with mem := (mem24.write 0x3F 1#8).write 0x54 2#8 })).mem 0x3F 22 =
      [1#8] ++ List.replicate 20 0#8 ++ [2#8] := by decide
theorem test_nop : (after (flying .nop { small with inval := true })).statusWord = 0x00000006#32 := by decide
theorem test_nop_keeps_error :
    (after (flying .nop { small with errv := true, errcode := 1#4 })).statusWord = 0x0000001A#32 := by decide

/-- Partial overlap, clockwise (95_test_vectors.md 2.6). -/
theorem test_rotate_overlap :
    dump (after (flying .rotate { small with
      mem := bytesAt 0 [0x80, 0x40, 0x20, 0x10, 0x08, 0x04, 0x02, 0x01, 0xAA, 0xBB, 0xCC, 0xDD, 0, 0, 0, 0]
      dstBase := 4#32 })).mem 0 16 =
      [0x80, 0x40, 0x20, 0x10, 0x01, 0x02, 0x04, 0x08, 0x10, 0x20, 0x40, 0x80, 0, 0, 0, 0] := by decide

/-- A second buffer, garbage padding, counter-clockwise (95_test_vectors.md 2.6). -/
theorem test_rotate_ccw_padding :
    dump (after (flying .rotate { ten with
      mem := bytesAt 0 [0x80, 0x7F, 0, 0xBF, 0, 0x3F, 0, 0x3F, 0, 0x3F, 0, 0x3F, 0, 0x3F, 0, 0x3F, 0, 0x3F, 0x40, 0x7F]
      dstBase := 0x20#32
      dir := true })).mem 0x20 20 =
      [0x80, 0x40, 0x40, 0, 0, 0, 0, 0, 0, 0, 0, 0, 0, 0, 0, 0, 0, 0x40, 0x80, 0] := by decide +kernel

/-- A byte that nothing has written reads as a free value, and a write to it is seen (20_memory.md R55). -/
theorem test_power_up :
    State.reset.mem.read 5 = Config.powerUpByte 5 ∧ State.reset.scr.readScr 5 = Config.powerUpScratch 5 ∧
      (State.reset.mem.write 5 0#8).read 5 = 0#8 ∧ (State.reset.mem.write 5 0#8).read 6 = Config.powerUpByte 6 :=
  ⟨rfl, rfl, rfl, rfl⟩

/-! The register window, rejections and the interrupt (95_test_vectors.md 2.8, 2.9). -/

/-- A CMD write of `w` is the host's next operation. -/
def writing (w : Word) (s : State) : State := doing (.regWrite 0x18#6 .word w) s

/-- A write of `v` to the register at `off` is the host's next operation. -/
def storing (off : BitVec 6) (v : Word) (s : State) : State := doing (.regWrite off .word v) s

theorem test_reject_illegal_and_range :
    (after (writing 0x00000101#32 wide)).statusWord = 0x00000018#32 ∧
      (after (writing 0x00440003#32 wide)).statusWord = 0x00000038#32 ∧
      (after (writing 0x43000003#32 wide)).statusWord = 0x00000001#32 := by decide
theorem test_reject_bounds :
    (after (writing 0x00000001#32 { wide with dstBase := 0xCD1#32 })).statusWord = 0x00000048#32 ∧
      (after (writing 0x00000001#32 { wide with dstBase := 0xCD0#32 })).statusWord = 0x00000001#32 ∧
      (after (writing 0x00000001#32 { wide with srcBase := 0xFFFFFFF0#32 })).statusWord = 0x00000048#32 ∧
      (after (writing 0x00000002#32 { wide with srcBase := 0xFFFFFFF0#32 })).statusWord = 0x00000001#32 := by decide
theorem test_reject_priority :
    (after (writing 0xFF000003#32 { wide with srcBase := 0xFFFFFFF0#32 })).statusWord = 0x00000038#32 ∧
      (after (writing 0x00000005#32 (flying .rotate wide))).statusWord = 0x00000029#32 ∧
      (after (writing 0x00630003#32 { wide with errv := true, errcode := 1#4 })).statusWord = 0x00000018#32 := by
  decide
theorem test_status_write :
    (after (storing 0x1C#6 0x8#32 { wide with errv := true, errcode := 1#4 })).statusWord = 0#32 ∧
      (after (storing 0x1C#6 0x2#32 { wide with done := true, inval := true })).statusWord = 0x4#32 := by decide
theorem test_accept_keeps_inval :
    (after (writing 0x00000001#32 { small with done := true, inval := true })).statusWord = 0x5#32 := by decide
/-- WAIT binds the name s to STATUS, and a branch on it is then no stop (95_test_vectors.md section 3). -/
theorem test_wait_binds :
    (after (doing .wait (flying .nop small))).nameValue waitName = some 0x00000001#32 ∧
      (after (doing .wait small)).nameValue waitName = some 0x00000000#32 ∧
      (after (doing .wait small)).hostPc = 1 := by decide
theorem test_irq :
    (after (flying .rotate { small with irqEn := true })).irqO = true ∧
      (after (flying .rotate small)).irqO = false ∧ (flying .rotate { small with irqEn := true }).irqO = false := by
  decide

/-! Witnesses: for every obligation with hypotheses, concrete values that meet them, each clause at a boundary. -/

/-- N = 2, STRIDE = 1. -/
def tiny : State := { State.reset with build := { n := 2, strideAlign := 1, memBytes := 0x100 } }

/-- N = 2, STRIDE = 4: three padding bytes in each row. -/
def padded : State := { State.reset with build := { n := 2, strideAlign := 4, memBytes := 0x100 } }

theorem writing_commands (w : Word) (s : State) (h : s.rst = false) : (writing w s).hostCommands w :=
  ⟨rfl, h, .inl rfl⟩

theorem doing_commands (i : Instr) (s : State) (hi : i.wf = true) (h : s.rst = false) :
    (doing (.cmd i) s).hostCommands (encode i) :=
  ⟨rfl, h, .inr ⟨i, hi, rfl, rfl⟩⟩

theorem storing_writes (off : BitVec 6) (v : Word) (s : State) (h : s.rst = false) : (storing off v s).hostWrites off v :=
  ⟨rfl, h, rfl⟩

theorem rotatesTo_did (s : State) (h1 : s.rotateReady = true) (h2 : does .rotate s = true) :
    rotatesTo s (did .rotate s) :=
  ⟨h1, exec_did _ _ h2⟩

theorem decode_five (i : Instr) : decode 0x00000005#32 ≠ .ok i := by
  rw [show decode 0x00000005#32 = .error (.reservedOp 5#4) from by decide]
  intro h
  cases h

theorem witness_DecodeInvertsEncode : (Instr.setpix 255 255 true).wf = true ∧ Instr.nop.wf = true := by decide

theorem witness_EncodeInvertsDecode : decode 0xFFFF0104#32 = .ok (.setpix 255 255 true) := by decide

theorem witness_ReservedOpIsRejected :
    5 ≤ (0x00000005#32).toNat % 16 ∧ 5 ≤ (0xFFFFFFFF#32).toNat % 16 ∧ (writing 5#32 small).runs = true ∧
      (writing 5#32 small).busy = false ∧ (writing 5#32 small).hostCommands 5#32 :=
  ⟨by decide, by decide, by decide, by decide, writing_commands _ _ rfl⟩

theorem witness_MustBeZeroBitIsRejected :
    (∀ p ∈ opRows.zip [0x80000000#32, 0x00000011#32, 0x00010002#32, 0x00000103#32, 0x00000204#32],
      p.1 ∈ opRows ∧ opField p.2 = p.1.op ∧ p.2 &&& p.1.mask ≠ p.1.pattern) ∧
      (writing 0x11#32 small).runs = true ∧ (writing 0x11#32 small).busy = false ∧
      (writing 0x11#32 small).hostCommands 0x11#32 :=
  ⟨by decide, by decide, by decide, writing_commands _ _ rfl⟩

/-- A mixed spelling, the largest and the smallest operand. -/
theorem witness_AssembledLineDecodes :
    assembleLine ['C', 'L', 'E', 'A', 'R'] = some 2#32 ∧
      lineOperands ['P', 'C', 'L', 'R', ' ', '2', '5', '5', ',', '0'] = some [255, 0] ∧
      Spells (lineMnemonic ['P', 'C', 'L', 'R', ' ', '2', '5', '5', ',', '0']) [255, 0] 0x00FF0004 ∧
      List.Forall₂ SpellsNumber [255, 0] [['0', 'x', 'f', 'f'], ['0']] :=
  ⟨by decide, by decide, Spells.pclr 255 0 (by decide) (by decide), .cons (.inr rfl) (.cons (.inl rfl) .nil)⟩

theorem witness_StrideIsTheAlignedMinimum :
    (Build.mk 1 1 1).valid = true ∧ (Build.mk 256 64 4294967296).valid = true ∧ 64 ∣ 64 ∧ 256 ≤ 8 * 64 := by decide

theorem witness_BitUnitsActOnOneBit : 0 < 8 ∧ 7 < 8 := by decide

theorem witness_BitUnitLaws : 7 / 8 = 0 / 8 ∧ 7 ≠ 0 := by decide

theorem witness_RotationMapsAreInverseBijections :
    0 < 1 ∧ 255 < 256 ∧ rotMap 256 false 0 255 = rotMap 256 false 0 255 := by decide

theorem witness_CanonicalMemoryIsUnique : Memory.wf [(0, 1#8), (255, 2#8)] = true := by decide

theorem witness_RegisterReadReturnsItsValue :
    ∀ off ∈ [0x00#6, 0x04#6, 0x20#6, 0x24#6, 0x3C#6], (doing (.regRead off .word 3) small).runs = true ∧
      (doing (.regRead off .word 3) small).turn = .host ∧ off.toNat % 4 = 0 ∧
      (doing (.regRead off .word 3) small).nextOp = some (.regRead off .word 3) := by decide

theorem witness_RegisterWriteTakesEffect :
    ∀ off ∈ [0x0C#6, 0x10#6, 0x14#6, 0x1C#6, 0x00#6, 0x3C#6], (storing off 7#32 small).runs = true ∧
      (storing off 7#32 small).hostWrites off 7#32 ∧ off.toNat % 4 = 0 ∧ off ≠ 0x18#6 := by
  intro off h
  exact ⟨show small.runs = true by decide, storing_writes _ _ _ rfl, by revert off; decide, by revert off; decide⟩

theorem witness_SubwordAccessIsRefused :
    ((doing (.regWrite 2#6 .word 1#32) small).runs = true ∧ (doing (.regWrite 2#6 .word 1#32) small).turn = .host ∧
      (2#6).toNat % 4 ≠ 0 ∧
      (doing (.regWrite 2#6 .word 1#32) small).nextOp = some (.regWrite 2#6 .word 1#32)) ∧
    ((doing (.regRead 0#6 .half 0) small).runs = true ∧ (doing (.regRead 0#6 .half 0) small).turn = .host ∧
      AccessSize.half ≠ .word ∧ (doing (.regRead 0#6 .half 0) small).nextOp = some (.regRead 0#6 .half 0)) ∧
    { small with refused := true }.refused = true := by decide

/-- A completion, an acceptance with DONE = 1, a write of 1 to DONE, and a reset with DONE = 1. -/
theorem witness_DoneFollowsCompletion :
    (step (flying .nop small) = .next (after (flying .nop small)) ∧ (flying .nop small).done = false ∧
      (after (flying .nop small)).done = true ∧ (flying .nop small).turn = .engine) ∧
    (step (writing 0#32 { small with done := true }) = .next (after (writing 0#32 { small with done := true })) ∧
      (after (writing 0#32 { small with done := true })).busy = true) ∧
    (step (storing 0x1C#6 2#32 { small with done := true }) =
        .next (after (storing 0x1C#6 2#32 { small with done := true })) ∧
      (after (storing 0x1C#6 2#32 { small with done := true })).done = false) ∧
    (step { small with done := true, turns := [.reset true] } =
        .next (after { small with done := true, turns := [.reset true] }) ∧
      (after { small with done := true, turns := [.reset true] }).done = false) :=
  ⟨⟨step_after _ (by decide), by decide, by decide, by decide⟩, ⟨step_after _ (by decide), by decide⟩,
    ⟨step_after _ (by decide), by decide⟩, ⟨step_after _ (by decide), by decide⟩⟩

theorem witness_InvalFollowsRotate :
    (step (flying .rotate tiny) = .next (after (flying .rotate tiny)) ∧ (flying .rotate tiny).performs 1#4 ∧
      (flying .rotate tiny).inval = false ∧ (after (flying .rotate tiny)).inval = true) ∧
    (step (storing 0x1C#6 4#32 { tiny with inval := true }) =
        .next (after (storing 0x1C#6 4#32 { tiny with inval := true })) ∧
      (after (storing 0x1C#6 4#32 { tiny with inval := true })).inval = false) :=
  ⟨⟨step_after _ (by decide), ⟨by decide, by decide, by decide⟩, by decide, by decide⟩,
    ⟨step_after _ (by decide), by decide⟩⟩

theorem inv_writing_five : (writing 5#32 small).Inv := by constructor <;> decide

theorem witness_ErrorRecordKeepsTheFirst :
    ((writing 5#32 small).Inv ∧ step (writing 5#32 small) = .next (after (writing 5#32 small)) ∧
      (writing 5#32 small).errv = false ∧ (after (writing 5#32 small)).errv = true) ∧
    ((writing 5#32 { small with errv := true, errcode := 4#4 }).Inv ∧
      step (writing 5#32 { small with errv := true, errcode := 4#4 }) =
        .next (after (writing 5#32 { small with errv := true, errcode := 4#4 })) ∧
      (after (writing 5#32 { small with errv := true, errcode := 4#4 })).errv = true) ∧
    ((storing 0x1C#6 8#32 { small with errv := true, errcode := 4#4 }).Inv ∧
      step (storing 0x1C#6 8#32 { small with errv := true, errcode := 4#4 }) =
        .next (after (storing 0x1C#6 8#32 { small with errv := true, errcode := 4#4 })) ∧
      (after (storing 0x1C#6 8#32 { small with errv := true, errcode := 4#4 })).errv = false) :=
  ⟨⟨inv_writing_five, step_after _ (by decide), by decide, by decide⟩,
    ⟨by constructor <;> decide, step_after _ (by decide), by decide⟩,
    ⟨by constructor <;> decide, step_after _ (by decide), by decide⟩⟩

/-- GETPIX in flight on a 1 at the top left pixel. -/
def reading : State := flying (.getpix 0 0) { tiny with mem := [(0, 0x80#8)] }

theorem witness_ResultChangesOnlyByGetpix :
    step reading = .next (after reading) ∧ (after reading).pixel ≠ reading.pixel :=
  ⟨step_after _ (by decide), by decide⟩

theorem witness_BusySpansTheCommand :
    (step (writing 2#32 small) = .next (after (writing 2#32 small)) ∧ (writing 2#32 small).busy = false ∧
      (after (writing 2#32 small)).busy = true) ∧
    (step (flying .nop small) = .next (after (flying .nop small)) ∧ (flying .nop small).busy = true ∧
      (after (flying .nop small)).busy = false) ∧
    (step (storing 0x14#6 8#32 (flying .clear small)) = .next (after (storing 0x14#6 8#32 (flying .clear small))) ∧
      (after (storing 0x14#6 8#32 (flying .clear small))).busy = true) :=
  ⟨⟨step_after _ (by decide), by decide, by decide⟩, ⟨step_after _ (by decide), by decide, by decide⟩,
    ⟨step_after _ (by decide), by decide⟩⟩

/-- Every clause, coordinates at N and N - 1, a base one byte above the last that fits and at it. -/
theorem witness_SubmissionFollowsTheProcedure :
    ((writing 5#32 (flying .nop small)).runs = true ∧ (writing 5#32 (flying .nop small)).hostCommands 5#32 ∧
      (writing 5#32 (flying .nop small)).busy = true) ∧
    ((writing 5#32 small).runs = true ∧ (writing 5#32 small).hostCommands 5#32 ∧ ∀ i, decode 5#32 ≠ .ok i) ∧
    ((writing 0x00080003#32 small).hostCommands 0x00080003#32 ∧ decode 0x00080003#32 = .ok (.getpix 8 0) ∧
      outOfRange small.build.n (.getpix 8 0)) ∧
    ((doing (.cmd .clear) { small with dstBase := 0xF9#32 }).hostCommands (encode .clear) ∧
      decode (encode .clear) = .ok .clear ∧ ¬outOfRange small.build.n .clear ∧
      ¬buffersInBounds small.build 0#32 0xF9#32 .clear) ∧
    (decode 0x07070004#32 = .ok (.setpix 7 7 false) ∧ ¬outOfRange small.build.n (.setpix 7 7 false) ∧
      buffersInBounds small.build 0#32 0xF8#32 (.setpix 7 7 false)) := by
  refine ⟨⟨by decide, writing_commands _ _ rfl, by decide⟩, ⟨by decide, writing_commands _ _ rfl, decode_five⟩,
    ⟨writing_commands _ _ rfl, by decide, .inl (by decide)⟩,
    ⟨doing_commands _ _ rfl rfl, by decide, id, ?_⟩, ⟨by decide, ?_, ?_⟩⟩
  · unfold buffersInBounds; decide
  · unfold outOfRange; decide
  · unfold buffersInBounds; decide

theorem witness_BusyBlockRejectsEveryWord :
    (writing 5#32 (flying .clear small)).runs = true ∧ (writing 5#32 (flying .clear small)).busy = true ∧
      (writing 5#32 (flying .clear small)).hostCommands 5#32 ∧
      step (writing 5#32 (flying .clear small)) = .next (after (writing 5#32 (flying .clear small))) ∧
      exec .clear (writing 5#32 (flying .clear small)).afterOp =
        .next (did .clear (writing 5#32 (flying .clear small)).afterOp) :=
  ⟨by decide, by decide, writing_commands _ _ rfl, step_after _ (by decide), exec_did _ _ (by decide)⟩

theorem witness_NopCompletes : (flying .nop small).quiet = true := by decide

/-- The commands in flight with both buffers at the last base that fits. -/
def lastBase : State := { small with srcBase := 0xF8#32, dstBase := 0xF8#32 }

theorem witness_ClearZeroesTheBuffer :
    (flying .clear lastBase).quiet = true ∧
      (flying .clear lastBase).lcmd.db.toNat + lastBase.build.bufBytes ≤ lastBase.build.memBytes := by decide

theorem witness_GetpixReadsThePixel :
    (flying (.getpix 7 7) lastBase).quiet = true ∧ 7 < lastBase.build.n ∧
      (flying (.getpix 7 7) lastBase).lcmd.sb.toNat + lastBase.build.bufBytes ≤ lastBase.build.memBytes := by decide

theorem witness_SetpixWritesThePixel :
    (flying (.setpix 7 7 true) lastBase).quiet = true ∧ 7 < lastBase.build.n ∧
      (flying (.setpix 7 7 true) lastBase).lcmd.db.toNat + lastBase.build.bufBytes ≤ lastBase.build.memBytes := by decide

theorem witness_RotateCompletesWithItsFrame : (flying .rotate lastBase).rotateReady = true := by decide

/-- SETPIX in flight, and then GETPIX of the same pixel. -/
theorem witness_GetpixAfterSetpixRoundTrip :
    let s := flying (.setpix 3 5 true) small
    let t := did (.setpix 3 5 true) s
    let s' := flying (.getpix 3 5) t
    s.quiet = true ∧ exec (.setpix 3 5 true) s = .next t ∧ s'.quiet = true ∧ s'.build = s.build ∧
      s'.lcmd.sb = s.lcmd.db ∧ s'.mem.read 5 = t.mem.read 5 ∧ exec (.getpix 3 5) s' = .next (did (.getpix 3 5) s') :=
  ⟨by decide, exec_did _ _ (by decide), by decide, by decide, by decide, rfl, exec_did _ _ (by decide)⟩

theorem witness_StruckCommandStillCompletes :
    ∀ i ∈ [Instr.nop, .rotate, .clear, .getpix 7 7, .setpix 7 7 false],
      { flying i lastBase with raced := true }.build.valid = true ∧ (flying i lastBase).busy = true ∧
        (flying i lastBase).lcmd.instr = some i ∧ (flying i lastBase).lcmd.fits lastBase.build = true := by decide

theorem witness_RotateHasTheClosedForm :
    (flying .rotate lastBase).rotateReady = true ∧ 7 < lastBase.build.bufBytes := by decide

/-- ROTATE in flight, in place, clockwise and counter-clockwise, on the image 0x80, 0x40. -/
def turningRight : State := flying .rotate { tiny with mem := [(0, 0x80#8), (1, 0x40#8)] }

/-- The same, counter-clockwise. -/
def turningLeft : State := flying .rotate { tiny with mem := [(0, 0x80#8), (1, 0x40#8)], dir := true }

theorem turnsRight : rotatesTo turningRight (did .rotate turningRight) := rotatesTo_did _ (by decide) (by decide)

theorem witness_RotateMovesEachPixel :
    (rotatesTo turningRight (did .rotate turningRight) ∧ turningRight.lcmd.d = false) ∧
      (rotatesTo turningLeft (did .rotate turningLeft) ∧ turningLeft.lcmd.d = true) ∧ 1 < tiny.build.n :=
  ⟨⟨turnsRight, by decide⟩, ⟨rotatesTo_did _ (by decide) (by decide), by decide⟩, by decide⟩

theorem takes_inPlace (t : State) (h : t.srcBase = t.lcmd.db) : takesDestination t (flying .rotate t) :=
  ⟨rfl, fun i _ => by show t.mem.read (t.srcBase.toNat + i) = _; rw [h]⟩

theorem witness_FourRotationsRestoreTheImage :
    ∃ t₀ s₁ t₁ s₂ t₂ s₃ t₃ : State,
      rotatesTo turningRight t₀ ∧ takesDestination t₀ s₁ ∧ s₁.lcmd.d = turningRight.lcmd.d ∧
      rotatesTo s₁ t₁ ∧ takesDestination t₁ s₂ ∧ s₂.lcmd.d = turningRight.lcmd.d ∧
      rotatesTo s₂ t₂ ∧ takesDestination t₂ s₃ ∧ s₃.lcmd.d = turningRight.lcmd.d ∧ rotatesTo s₃ t₃ :=
  ⟨did .rotate turningRight, _, did .rotate (flying .rotate (did .rotate turningRight)), _,
    did .rotate (flying .rotate (did .rotate (flying .rotate (did .rotate turningRight)))), _, _,
    turnsRight, takes_inPlace _ (by decide), by decide,
    rotatesTo_did _ (by decide) (by decide), takes_inPlace _ (by decide), by decide,
    rotatesTo_did _ (by decide) (by decide), takes_inPlace _ (by decide), by decide,
    rotatesTo_did _ (by decide) (by decide)⟩

theorem witness_OppositeRotationUndoes :
    ∃ s₁ t₁ : State, rotatesTo turningRight (did .rotate turningRight) ∧
      takesDestination (did .rotate turningRight) s₁ ∧ (s₁.lcmd.d = !turningRight.lcmd.d) ∧ rotatesTo s₁ t₁ :=
  ⟨flying .rotate { did .rotate turningRight with dir := true }, _, turnsRight, ⟨rfl, fun _ _ => rfl⟩, by decide,
    rotatesTo_did _ (by decide) (by decide)⟩

theorem witness_RotateKeepsThePixelCount : rotatesTo turningRight (did .rotate turningRight) := turnsRight

/-- A padding bit of a pixel byte, and a padding byte. -/
theorem witness_RotateZeroesPadding :
    rotatesTo (flying .rotate padded) (did .rotate (flying .rotate padded)) ∧ 0 < padded.build.bufBytes ∧
      isPadding padded.build 0 5 = true ∧ padded.build.minStride ≤ 1 % padded.build.stride :=
  ⟨rotatesTo_did _ (by decide) (by decide), by decide, by decide, by decide⟩

theorem witness_UniformImagesStayUniform :
    (rotatesTo (flying .rotate { tiny with mem := [(0, 0#8), (1, 0#8)] })
        (did .rotate (flying .rotate { tiny with mem := [(0, 0#8), (1, 0#8)] })) ∧
      ∀ x, x < 2 → ∀ y, y < 2 → pix tiny.build [(0, 0#8), (1, 0#8)] 0#32 x y = false) ∧
    (rotatesTo (flying .rotate { tiny with mem := [(0, 0xC0#8), (1, 0xC0#8)] })
        (did .rotate (flying .rotate { tiny with mem := [(0, 0xC0#8), (1, 0xC0#8)] })) ∧
      ∀ x, x < 2 → ∀ y, y < 2 → pix tiny.build [(0, 0xC0#8), (1, 0xC0#8)] 0#32 x y = true) :=
  ⟨⟨rotatesTo_did _ (by decide) (by decide), by decide⟩, ⟨rotatesTo_did _ (by decide) (by decide), by decide⟩⟩

theorem witness_ScanOrderDoesNotMatter :
    [(1, 0), (0, 0), (0, 1), (1, 1)].Nodup ∧
      ∀ x y, (x, y) ∈ [(1, 0), (0, 0), (0, 1), (1, 1)] ↔ x < tiny.build.n ∧ y < tiny.build.n := by
  refine ⟨by decide, fun x y => ?_⟩
  simp [tiny]
  omega

theorem witness_PaddingDoesNotInfluenceRotate :
    rotatesTo turningRight (did .rotate turningRight) ∧
      rotatesTo { turningRight with mem := [(0, 0xBF#8), (1, 0x7F#8)] }
        (did .rotate { turningRight with mem := [(0, 0xBF#8), (1, 0x7F#8)] }) ∧
      ∀ x, x < 2 → ∀ y, y < 2 →
        pix tiny.build [(0, 0xBF#8), (1, 0x7F#8)] 0#32 x y = pix tiny.build turningRight.mem 0#32 x y :=
  ⟨turnsRight, rotatesTo_did _ (by decide) (by decide), by decide⟩

theorem witness_InterruptFollowsStatus : small.errv = false := by decide

theorem witness_PulseExactlyOnRotateCompletion :
    step (flying .rotate tiny) = .next (after (flying .rotate tiny)) ∧ (after (flying .rotate tiny)).invalO = true :=
  ⟨step_after _ (by decide), by decide⟩

/-- The last byte of memory with the block idle, and the byte just above the buffer of a CLEAR in flight. -/
theorem witness_HostByteAccessOutsideTheCommand :
    ((doing (.memWrite 0xFF#32 1#8) small).runs = true ∧ (doing (.memWrite 0xFF#32 1#8) small).turn = .host ∧
      (0xFF#32).toNat < small.build.memBytes ∧
      (doing (.memWrite 0xFF#32 1#8) small).nextOp = some (.memWrite 0xFF#32 1#8) ∧
      (doing (.memWrite 0xFF#32 1#8) small).busy = false) ∧
    ((doing (.memWrite 8#32 1#8) (flying .clear small)).turn = .host ∧
      (readSet small.build (flying .clear small).lcmd).has 8 = false ∧
      (writeSet small.build (flying .clear small).lcmd).has 8 = false) ∧
    ((doing (.memRead 0#32 1) (flying .rotate { small with dstBase := 8#32 })).turn = .host ∧
      (doing (.memRead 0#32 1) (flying .rotate { small with dstBase := 8#32 })).nextOp = some (.memRead 0#32 1) ∧
      (writeSet small.build (flying .rotate { small with dstBase := 8#32 }).lcmd).has 0 = false) := by decide

/-- The first and the last byte of the buffer of a CLEAR, and the byte that a GETPIX reads. -/
theorem witness_ConcurrentAccessIsRecorded :
    ((doing (.memWrite 7#32 1#8) (flying .clear small)).runs = true ∧
      (doing (.memWrite 7#32 1#8) (flying .clear small)).turn = .host ∧ (flying .clear small).busy = true ∧
      (doing (.memWrite 7#32 1#8) (flying .clear small)).nextOp = some (.memWrite 7#32 1#8) ∧
      (writeSet small.build (flying .clear small).lcmd).has 7 = true) ∧
    (readSet small.build (flying (.getpix 0 7) small).lcmd).has 7 = true ∧
    ((doing (.memRead 0#32 1) (flying .clear small)).nextOp = some (.memRead 0#32 1) ∧
      (writeSet small.build (flying .clear small).lcmd).has 0 = true) := by decide

theorem witness_FaultRecordsOnlyGrow :
    step { small with faults := [.concurrentAccess 0#32 true] } =
        .next (after { small with faults := [.concurrentAccess 0#32 true] }) ∧
      FaultRecord.concurrentAccess 0#32 true ∈ { small with faults := [.concurrentAccess 0#32 true] }.faults ∧
      { small with faults := [.concurrentAccess 0#32 true] }.faults ≠ [] :=
  ⟨step_after _ (by decide), by decide, by decide⟩

/-- A bound name and a label: `BNZ` with a bit of the mask set, and with none. -/
def branching (v : Word) : State :=
  { small with prog := [.label 1, .branchNZ 0 1#32 1], hostPc := 1, names := [(0, v)], turns := [.host] }

theorem witness_HostControlFlow :
    ((doing .wait (flying .nop small)).runs = true ∧ (doing .wait (flying .nop small)).turn = .host ∧
      (doing .wait (flying .nop small)).nextOp = some .wait) ∧
    (doing (.label 0) small).nextOp = some (.label 0) ∧
    ((branching 3#32).runs = true ∧ (branching 3#32).turn = .host ∧
      (branching 3#32).nextOp = some (.branchNZ 0 1#32 1) ∧ (branching 3#32).nameValue 0 = some 3#32 ∧
      (branching 3#32).labelPos 1 = some 0 ∧ 3#32 &&& 1#32 ≠ 0#32) ∧
    ((branching 2#32).nameValue 0 = some 2#32 ∧ 2#32 &&& 1#32 = 0#32) := by decide

theorem witness_RotatePseudoCommandsSetDirection :
    (doing (.regWrite 0x0C#6 .word 3#32) { small with irqEn := true }).runs = true ∧
      (doing (.regWrite 0x0C#6 .word 3#32) { small with irqEn := true }).turn = .host ∧
      (doing (.regWrite 0x0C#6 .word 3#32) { small with irqEn := true }).nextOp = (rotateProgram true true)[0]? := by
  decide

theorem witness_ResetEventClearsTheRegisters :
    { flying .clear small with turns := [.reset true] }.runs = true ∧
      { flying .clear small with turns := [.reset true] }.resets ∧
      (writeSet small.build (flying .clear small).lcmd).has 8 = false :=
  ⟨by decide, rfl, by decide⟩

theorem witness_ReleaseOfResetChangesNothingElse :
    { small with rst := true, turns := [.reset false] }.runs = true ∧
      { small with rst := true, turns := [.reset false] }.turn = .reset false ∧
      { small with rst := true, turns := [.reset false] }.Inv ∧
      { small with rst := true, turns := [.reset false] }.rst = true :=
  ⟨by decide, by decide, by constructor <;> decide, by decide⟩

theorem witness_CommandDuringResetIsIgnored :
    ((writing 5#32 { small with rst := true }).runs = true ∧ (writing 5#32 { small with rst := true }).turn = .host ∧
      (writing 5#32 { small with rst := true }).nextOp = some (.regWrite 0x18#6 .word 5#32)) ∧
    ((doing (.cmd .clear) { small with rst := true }).runs = true ∧
      (doing (.cmd .clear) { small with rst := true }).turn = .host ∧ Instr.clear.wf = true ∧
      (doing (.cmd .clear) { small with rst := true }).nextOp = some (.cmd .clear)) := by decide

theorem witness_StepRunsTheSubmittedCommand :
    (writing 0x00000003#32 small).runs = true ∧ (writing 0x00000003#32 small).busy = false ∧
      (writing 0x00000003#32 small).hostCommands 0x00000003#32 ∧ decode 0x00000003#32 = .ok (.getpix 0 0) :=
  ⟨by decide, by decide, writing_commands _ _ rfl, by decide⟩

theorem witness_StepPerformsTheLatchedCommand :
    (Instr.setpix 255 0 true).wf = true ∧ (flying (.setpix 7 7 true) small).runs = true ∧ (flying (.setpix 7 7 true) small).turn = .engine ∧
      (flying (.setpix 7 7 true) small).busy = true ∧
      (flying (.setpix 7 7 true) small).lcmd.instr = some (.setpix 7 7 true) := by decide

theorem witness_IdleBlockDoesNothing :
    small.runs = true ∧ small.busy = false ∧ small.turn = .host ∧ small.nextOp = none ∧
      { small with turns := [.engine] }.turn = .engine := by decide

/-- N = 0, N = 257, STRIDE_ALIGN = 3, memory one byte short, memory one byte too large. -/
theorem witness_InvalidBuildIsRefused :
    small.refused = false ∧ (Build.mk 0 1 8).n = 0 ∧ 256 < (Build.mk 257 1 8481).n ∧
      (Build.mk 8 3 64).strideAlign ∉ [1, 2, 4, 8, 16, 32, 64] ∧
      (Build.mk 8 1 7).memBytes < (Build.mk 8 1 7).bufBytes ∧ 4294967296 < (Build.mk 8 1 4294967297).memBytes := by
  decide

theorem witness_BuildConstantsNeverChange : step small = .next (after small) := step_after _ (by decide)

theorem inv_flying_rotate : (flying .rotate lastBase).Inv := by constructor <;> decide

theorem witness_AcceptedCommandNeverFaults :
    (flying .rotate lastBase).Inv ∧ (flying .rotate lastBase).runs = true ∧
      (flying .rotate lastBase).turn = .engine ∧ (flying .rotate lastBase).busy = true :=
  ⟨inv_flying_rotate, by decide, by decide, by decide⟩

theorem witness_AcceptedCommandCompletes :
    (writing 2#32 lastBase).Inv ∧ (writing 2#32 lastBase).runs = true ∧ (writing 2#32 lastBase).busy = false ∧
      (writing 2#32 lastBase).hostCommands 2#32 ∧ (writing 2#32 lastBase).turns.tail = [] ∧
      decode 2#32 = .ok .clear ∧ ¬outOfRange lastBase.build.n .clear ∧
      buffersInBounds lastBase.build lastBase.srcBase lastBase.dstBase .clear := by
  refine ⟨by constructor <;> decide, by decide, by decide, writing_commands _ _ rfl, by decide, by decide, id, ?_⟩
  unfold buffersInBounds
  decide

theorem witness_FinalStateStaysFinal :
    small.final = true ∧ small.runs = true ∧ ∀ level, small.turn ≠ .reset level := by decide

theorem witness_EveryStepKeepsTheInvariant :
    (flying .rotate tiny).Inv ∧ step (flying .rotate tiny) = .next (after (flying .rotate tiny)) :=
  ⟨by constructor <;> decide, step_after _ (by decide)⟩

end Sys2Proof.Tests
end

/-! The statements from 00_scope.md: the derived parameters of a build, the builds that are refused, and that padding
has no influence on a rotation. The pixels that ROTATE puts into a bit of the destination are in `rotatesTo_bufBit`. -/

namespace Sys2Proof

/-! Derived parameters (00_scope.md R8, R9). -/

theorem Build.strideAlign_dvd_stride (b : Build) : b.strideAlign ∣ b.stride := Nat.dvd_mul_left _ _

/-- STRIDE_ALIGN is a power of two up to 64 (00_scope.md R8). -/
theorem Build.strideAlign_dvd_64 (b : Build) (h : b.valid = true) : b.strideAlign ∣ 64 := by
  obtain ⟨-, -, hmem, -, -⟩ := b.valid_iff.1 h
  have hall : ∀ a ∈ [1, 2, 4, 8, 16, 32, 64], a ∣ 64 := by decide
  exact hall _ hmem

/-- Rounding up gives the least multiple: any aligned row length with a bit for every column is at least STRIDE. -/
theorem Build.stride_le_of_dvd (b : Build) (h : b.valid = true) {k : Nat} (hdvd : b.strideAlign ∣ k)
    (hn : b.n ≤ 8 * k) : b.stride ≤ k := by
  obtain ⟨c, rfl⟩ := hdvd
  have hpos := b.strideAlign_pos h
  have hmin : b.minStride ≤ b.strideAlign * c := by
    unfold Build.minStride
    omega
  have hquot : (b.minStride + b.strideAlign - 1) / b.strideAlign < c + 1 := by
    rw [Nat.div_lt_iff_lt_mul hpos, Nat.add_mul, Nat.one_mul, Nat.mul_comm c]
    omega
  calc b.stride ≤ c * b.strideAlign := Nat.mul_le_mul_right _ (Nat.le_of_lt_succ hquot)
    _ = b.strideAlign * c := Nat.mul_comm _ _

/-- Settles O8. The bound STRIDE ≤ 64 is the minimality at k = 64, which is aligned and holds a row of 256 pixels. -/
theorem strideIsTheAlignedMinimum : Obligations.StrideIsTheAlignedMinimum := by
  intro b h
  obtain ⟨-, hn, -, -, -⟩ := b.valid_iff.1 h
  have hleast := fun k (hdvd : b.strideAlign ∣ k) hk => b.stride_le_of_dvd h hdvd hk
  exact ⟨b.strideAlign_dvd_stride, b.n_le_columns h, hleast, hleast 64 (b.strideAlign_dvd_64 h) (by omega), hn, rfl⟩

namespace Machine

/-! Builds outside their limits (00_scope.md R7, R8, R11). -/

theorem step_of_invalid_build (s : State) (hr : s.refused = false) (hv : ¬s.build.valid = true) :
    step s = .refused .invalidConfiguration := by
  simp [step, hr, hv]

/-- Settles O54: each broken limit contradicts one conjunct of `Build.valid_iff`. -/
theorem invalidBuildIsRefused : Obligations.InvalidBuildIsRefused := by
  intro s hr hlimit
  refine step_of_invalid_build s hr fun hv => ?_
  obtain ⟨hn1, hn256, halign, hbuf, hmem⟩ := s.build.valid_iff.1 hv
  rcases hlimit with h | h | h | h | h
  · omega
  · omega
  · exact h halign
  · omega
  · omega

/-! What a completed ROTATE leaves in its destination (41_rotate.md R92 to R97). -/

theorem rotateReady_iff (s : State) :
    s.rotateReady = true ↔
      s.build.valid = true ∧ s.busy = true ∧ s.raced = false ∧ regionOk s.build s.lcmd.sb = true ∧
        regionOk s.build s.lcmd.db = true := by
  simp only [State.rotateReady, State.quiet, Bool.and_eq_true, Bool.not_eq_true', and_assoc]

/-- Memory after a rotation that no hazard has struck: the cleared destination, stamped from the snapshot. -/
theorem rotateBuffer_mem (s : State) (h : s.raced = false) :
    s.rotateBuffer.mem =
      stampImage s.build (s.mem.snapshot s.lcmd.sb.toNat s.build.bufBytes s.scr) s.lcmd.d s.lcmd.db.toNat
        (s.mem.clear s.lcmd.db.toNat s.build.bufBytes) := by
  simp [State.rotateBuffer, h]

theorem rotatesTo_eq {s t : State} (h : rotatesTo s t) : t = s.rotateBuffer.complete := by
  obtain ⟨hready, hexec⟩ := h
  obtain ⟨-, hbusy, -⟩ := (rotateReady_iff s).1 hready
  rcases exec_next hexec with ⟨-, -, -, rfl⟩ | ⟨hidle, -⟩ | ⟨hidle, -⟩ | ⟨hidle, -⟩
  · rfl
  all_goals simp [hbusy] at hidle

/-- The snapshot in SCR holds the pixels of the source (41_rotate.md R92). -/
theorem extractBit_snapshot (b : Build) (hv : b.valid = true) (m scr : Memory) (sb : Word) {x y : Nat} (hx : x < b.n)
    (hy : y < b.n) :
    extractBit ((m.snapshot sb.toNat b.bufBytes scr).readScr (y * b.stride + x / 8)) x = pix b m sb x y := by
  rw [Memory.readScr_snapshot, if_pos (pixel_in_buffer b hv hx hy), pix, byteAddr, Nat.add_assoc]

/-- A source pixel stamps bit `j` of byte `i` of the destination exactly when it is foreground and the map takes it to
the row and the column of that bit. -/
theorem stampsBit_snapshot_iff (b : Build) (hv : b.valid = true) (m scr : Memory) (sb : Word) (d : Bool) (db : Nat)
    {i j x y : Nat} (hj : j < 8) (hx : x < b.n) (hy : y < b.n) :
    stampsBit b (m.snapshot sb.toNat b.bufBytes scr) d db (db + i) j x y ↔
      pix b m sb x y = true ∧ rotMap b.n d x y = (bitColumn b i j, i / b.stride) := by
  have hcol : (rotMap b.n d x y).1 < 8 * b.stride :=
    (rotMap_in_range b.n d hx hy).1.trans_le (b.n_le_columns hv)
  rw [stampsBit, extractBit_snapshot b hv m scr sb hx hy, byteAddr_bit_iff b db hcol, Prod.ext_iff]
  simp only [hj, true_and, and_comm]

/-- Bit `j` of byte `i` of the destination of a completed ROTATE is 1 exactly when a foreground pixel of the source is
mapped to the row and the column of that bit. -/
theorem rotatesTo_bufBit {s t : State} (h : rotatesTo s t) {i j : Nat} (hi : i < s.build.bufBytes) (hj : j < 8) :
    bufBit t.mem s.lcmd.db i j = true ↔
      ∃ y, y < s.build.n ∧ ∃ x, x < s.build.n ∧ pix s.build s.mem s.lcmd.sb x y = true ∧
        rotMap s.build.n s.lcmd.d x y = (bitColumn s.build i j, i / s.build.stride) := by
  obtain ⟨hv, -, hraced, -, -⟩ := (rotateReady_iff s).1 h.1
  have hcleared : (s.mem.clear s.lcmd.db.toNat s.build.bufBytes).read (s.lcmd.db.toNat + i) = 0x00#8 := by
    rw [Memory.read_clear, if_pos (by omega)]
  rw [rotatesTo_eq h, State.complete_mem, rotateBuffer_mem s hraced, bufBit, stampImage_bit _ _ _ _ _ _ _ hj, hcleared,
    BitVec.getLsbD_zero]
  simp only [Bool.false_eq_true, false_or]
  refine exists_congr fun y => and_congr_right fun hy => exists_congr fun x => and_congr_right fun hx => ?_
  exact stampsBit_snapshot_iff s.build hv s.mem s.scr s.lcmd.sb s.lcmd.d s.lcmd.db.toNat hj hx hy

/-- Settles O38: `rotatesTo_bufBit` gives every destination bit by pixels of the source alone. -/
theorem paddingDoesNotInfluenceRotate : Obligations.PaddingDoesNotInfluenceRotate := by
  intro s t s' t' h h' hbuild hdir hpix i hi
  refine BitVec.eq_of_getLsbD_eq fun j hj => Bool.eq_iff_iff.2 ?_
  change bufBit t'.mem s'.lcmd.db i j = true ↔ bufBit t.mem s.lcmd.db i j = true
  rw [rotatesTo_bufBit h hi hj, rotatesTo_bufBit h' (hbuild ▸ hi) hj, hbuild, hdir]
  refine exists_congr fun y => and_congr_right fun hy => exists_congr fun x => and_congr_right fun hx => ?_
  rw [hpix x y hx hy]

end Machine

end Sys2Proof

/-! The statements from 10_state.md: what each status flag, RESULT, LCMD and the fault records do in a step, the
invariant, and the register window. -/

namespace Sys2Proof

/-- A decoded operand comes from an 8-bit field (30_encoding.md R70). -/
theorem decode_wf {w : Word} {i : Instr} (h : decode w = .ok i) : i.wf = true := by
  have hx : xField w < 256 := BitVec.isLt _
  have hy : yField w < 256 := BitVec.isLt _
  unfold decode at h
  dsimp only at h
  split_ifs at h <;> cases h <;> simp [Instr.wf, hx, hy]

namespace Machine

/-! The host's hold on a step. -/

theorem State.hostWrites.rst_eq {s : State} {off : BitVec 6} {v : Word} (h : s.hostWrites off v) : s.rst = false :=
  h.2.1

theorem State.hostCommands.rst_eq {s : State} {w : Word} (h : s.hostCommands w) : s.rst = false := h.2.1

theorem State.runs_iff (s : State) : s.runs = true ↔ s.refused = false ∧ s.build.valid = true := by
  simp [State.runs]

/-- An operation of the host is its turn (30_encoding.md R79). -/
theorem step_hostOp {s : State} {o : HostOp} (hr : s.runs = true) (ht : s.turn = .host) (ho : s.nextOp = some o) :
    step s = s.begin.hostOp o := by
  rw [step_host s hr ht, State.hostTurn, nextOp_begin, ho]

/-! What a perform step leaves alone: `effectOf_shape`, field by field. -/

@[simp] theorem effectOf_build (i : Instr) (s : State) : (effectOf i s).build = s.build := by
  rw [effectOf_shape]
@[simp] theorem effectOf_inval (i : Instr) (s : State) : (effectOf i s).inval = (s.inval || i.op == 0x1#4) := by
  rw [effectOf_shape]
@[simp] theorem effectOf_invalO (i : Instr) (s : State) : (effectOf i s).invalO = (s.invalO || i.op == 0x1#4) := by
  rw [effectOf_shape]
@[simp] theorem effectOf_errv (i : Instr) (s : State) : (effectOf i s).errv = s.errv := by
  rw [effectOf_shape]
@[simp] theorem effectOf_errcode (i : Instr) (s : State) : (effectOf i s).errcode = s.errcode := by
  rw [effectOf_shape]
@[simp] theorem effectOf_faults (i : Instr) (s : State) : (effectOf i s).faults = s.faults := by
  rw [effectOf_shape]
@[simp] theorem effectOf_rst (i : Instr) (s : State) : (effectOf i s).rst = s.rst := by
  rw [effectOf_shape]

/-- Reset makes every byte of SCR unspecified (70_reset_and_hazards.md R137). -/
theorem assertReset_scr (s : State) : ∃ draw, s.assertReset.scr = s.scr.scramble 0 s.build.bufBytes draw := by
  cases hb : s.busy <;> exact ⟨_, by simp only [State.assertReset, hb]; rfl⟩

/-! What a host turn can do to surface memory, and when it strikes the command in flight. -/

/-- A submission rejects or accepts (60_exceptions.md R116). -/
theorem submit_reject_or_accept {s t : State} {w : Word} (h : s.submit w = .next t) :
    (∃ r, t = s.reject r) ∨ ∃ l, t = s.accept l := by
  rcases submit_next h with ⟨-, rfl⟩ | ⟨-, -, rfl⟩ | ⟨hb, i, -, hx⟩
  · exact .inl ⟨_, rfl⟩
  · exact .inl ⟨_, rfl⟩
  · rcases exec_next hx with ⟨hb', -⟩ | ⟨-, -, rfl⟩ | ⟨-, -, -, rfl⟩ | ⟨-, -, -, rfl⟩
    · simp [hb] at hb'
    · exact .inl ⟨_, rfl⟩
    · exact .inl ⟨_, rfl⟩
    · exact .inr ⟨_, rfl⟩

/-- `t` follows `s` by a host operation as far as surface memory is concerned: at most one byte inside it is written,
and only a command in flight becomes struck (20_memory.md R47, R62). -/
structure HostMemStep (s t : State) : Prop where
  mem : t.mem = s.mem ∨ ∃ a v, a < s.build.memBytes ∧ t.mem = s.mem.write a v
  raced : t.raced = true → s.raced = true ∨ s.busy = true

theorem writeReg_memStep {s t : State} {r : Reg} {v : Word} (h : s.writeReg r v = .next t) : HostMemStep s t := by
  rcases writeReg_next h with rfl | ⟨-, ⟨-, rfl⟩ | ⟨-, rfl⟩ | ⟨-, rfl⟩ | ⟨-, rfl⟩ | ⟨-, hs⟩⟩
  case inr.inr.inr.inr.inr =>
    rcases submit_reject_or_accept hs with ⟨r, rfl⟩ | ⟨l, rfl⟩
    · exact ⟨.inl (by simp), fun hrc => .inl (by simpa using hrc)⟩
    · exact ⟨.inl rfl, by simp⟩
  all_goals exact ⟨.inl rfl, .inl⟩

theorem hostMemWrite_memStep {s t : State} {a : Word} {v : Byte} (h : s.hostMemWrite a v = .next t) :
    HostMemStep s t := by
  unfold State.hostMemWrite at h
  split at h
  · rename_i ha
    cases hz : s.writeHazard a with
    | true =>
      simp only [hz, if_true] at h
      cases h
      refine ⟨.inr ⟨_, _, ha, rfl⟩, fun _ => .inr ?_⟩
      simp only [State.writeHazard, Bool.and_eq_true] at hz
      exact hz.1
    | false =>
      simp [hz] at h
      subst h
      exact ⟨.inr ⟨_, _, ha, rfl⟩, .inl⟩
  · cases h

theorem hostMemRead_memStep {s t : State} {a : Word} {name : Nat} (h : s.hostMemRead a name = .next t) :
    HostMemStep s t := by
  unfold State.hostMemRead at h
  split at h
  · split at h
    · rename_i hz
      cases h
      simp only [State.readHazard, Bool.and_eq_true] at hz
      exact ⟨.inl rfl, fun _ => .inr hz.1⟩
    · cases h
      exact ⟨.inl rfl, .inl⟩
  · cases h

theorem HostMemStep.of_advance {s t : State} (h : HostMemStep s.advance t) : HostMemStep s t := ⟨h.mem, h.raced⟩

theorem HostMemStep.of_begin {s t : State} (h : HostMemStep s.begin t) : HostMemStep s t := ⟨h.mem, h.raced⟩

theorem hostTurn_memStep {s t : State} (h : s.hostTurn = .next t) : HostMemStep s t := by
  rcases hostTurn_next h with ⟨-, rfl⟩ | ⟨_, _, -, hw⟩ | ⟨_, -, -, hw⟩ | ⟨_, _, _, _, rfl, -, -⟩ | ⟨_, _, -, hw⟩ |
    ⟨_, _, -, hw⟩
  · exact ⟨.inl rfl, .inl⟩
  · exact (writeReg_memStep hw).of_advance
  · exact (writeReg_memStep hw).of_advance
  · exact ⟨.inl rfl, .inl⟩
  · exact (hostMemWrite_memStep hw).of_advance
  · exact (hostMemRead_memStep hw).of_advance

theorem step_host_memStep {s t : State} (h : step s = .next t) (ht : s.turn = .host) : HostMemStep s t := by
  obtain ⟨hr, -⟩ := step_next h
  rw [step_host s hr ht] at h
  exact (hostTurn_memStep h).of_begin

/-! What every step keeps, one part of the invariant at a time. -/

/-- The build is a constant (00_scope.md R11). -/
theorem step_build {s t : State} (h : step s = .next t) : t.build = s.build := by
  cases step_cases h with
  | _ => rename_i eq; subst eq; simp

/-- What holds of surface memory and is kept by every write inside it is kept by every step. -/
theorem step_mem_keeps {s t : State} (hs : s.Inv) (h : step s = .next t) (P : Memory → Prop) (hP : P s.mem)
    (hw : ∀ m a v, a < s.build.memBytes → P m → P (m.write a v)) : P t.mem := by
  cases step_cases h with
  | hostOther ht =>
    rcases (step_host_memStep h ht).mem with hm | ⟨a, v, ha, hm⟩
    · exact hm ▸ hP
    · exact hm ▸ hw _ a v ha hP
  | performed i _ _ _ hr hi eq =>
    subst eq
    exact effectOf_mem_keeps i s.begin hs.build_valid hr hi P hP hw
  | asserted _ eq =>
    subst eq
    rw [State.assertReset_mem]
    split
    · rename_i hb
      have hin := writeSet_in_memory s.build s.lcmd hs.build_valid (hs.busy_fits hb)
      exact forRange_keeps P _ _ _ hP fun k hk m hm => hw m _ _ (lt_of_lt_of_le (by simpa using hk) hin) hm
    · exact hP
  | _ => rename_i eq; subst eq; simpa using hP

/-- What holds of SCR and is kept by every write inside it is kept by every step. -/
theorem step_scr_keeps {s t : State} (h : step s = .next t) (P : Memory → Prop) (hP : P s.scr)
    (hw : ∀ m a v, a < s.build.bufBytes → P m → P (m.write a v)) : P t.scr := by
  cases step_cases h with
  | performed i _ _ _ _ _ eq =>
    subst eq
    exact effectOf_scr_keeps i s.begin P hP hw
  | asserted _ eq =>
    subst eq
    obtain ⟨draw, hscr⟩ := assertReset_scr s.begin
    rw [hscr]
    exact forRange_keeps P _ _ _ hP fun k hk m hm => hw m _ _ (by simpa using hk) hm
  | _ => rename_i eq; subst eq; simpa using hP


theorem Reject.code_pos (r : Reject) : r.code ≠ 0#4 := by cases r <;> decide

theorem Reject.code_le (r : Reject) : r.code.toNat ≤ 4 := by cases r <;> decide

/-- ERRCODE is a code of 60_exceptions.md R115, 0 exactly while ERRV = 0 (10_state.md R35). -/
def State.errorRecordOk (s : State) : Prop := s.errcode.toNat ≤ 4 ∧ (s.errcode = 0#4 ↔ s.errv = false)

theorem reject_errorRecordOk {s : State} (r : Reject) (h : s.errorRecordOk) : (s.reject r).errorRecordOk := by
  cases he : s.errv with
  | true => simpa [State.errorRecordOk, he] using h
  | false => simpa [State.errorRecordOk, he] using ⟨r.code_le, r.code_pos⟩

theorem writeStatus_errorRecordOk {s : State} (v : Word) (h : s.errorRecordOk) :
    (s.writeStatus v).errorRecordOk := by
  cases hv : v.getLsbD 3 with
  | true => simp [State.errorRecordOk, hv]
  | false => simpa only [State.errorRecordOk, State.writeStatus_errcode, State.writeStatus_errv, hv, Bool.not_false,
      Bool.and_true, Bool.false_eq_true, if_false] using h

theorem step_errorRecordOk {s t : State} (h : step s = .next t) (hs : s.errorRecordOk) : t.errorRecordOk := by
  cases step_cases h with
  | writeStatus v _ eq => exact eq ▸ writeStatus_errorRecordOk (s := s.afterOp) v hs
  | rejected r _ _ eq => exact eq ▸ reject_errorRecordOk (s := s.afterOp) r hs
  | asserted _ eq => simp [State.errorRecordOk, eq]
  | _ => rename_i eq; subst eq; simpa [State.errorRecordOk] using hs

/-- DONE stays 0 while a command is in flight (10_state.md R33). -/
theorem step_busy_done {s t : State} (h : step s = .next t) (hs : s.busy = true → s.done = false) :
    t.busy = true → t.done = false := by
  cases step_cases h with
  | writeStatus v _ eq =>
    intro hb
    simp [eq, hs (by simpa [eq] using hb)]
  | accepted _ _ _ _ _ _ _ eq => simp [eq]
  | performed _ _ _ _ _ _ eq => simp [eq]
  | asserted _ eq => simp [eq]
  | _ => rename_i eq; subst eq; simpa using hs

/-- What acceptance latches has passed the tests of RANGE and BOUNDS (60_exceptions.md R116). -/
theorem latch_fits {s : State} {w : Word} {i : Instr} (hd : decode w = .ok i) (hr : rangeOk s.build i = true)
    (hi : boundsOk s.build s.srcBase s.dstBase i = true) : (s.latch i).fits s.build = true := by
  rw [fits_of_instr s.build (latch_instr s i (decode_wf hd)), Bool.and_eq_true]
  exact ⟨hr, hi⟩

/-- A command in flight fits its buffers (60_exceptions.md R116). -/
theorem step_busy_fits {s t : State} (h : step s = .next t) (hs : s.busy = true → s.lcmd.fits s.build = true) :
    t.busy = true → t.lcmd.fits t.build = true := by
  cases step_cases h with
  | accepted i w _ _ hd hr hi eq =>
    intro _
    simpa [eq] using latch_fits hd hr hi
  | performed _ _ _ _ _ _ eq => simp [eq]
  | asserted _ eq => simp [eq]
  | _ => rename_i eq; subst eq; simpa using hs

/-- Only a command in flight is marked as struck (20_memory.md R62). -/
theorem step_raced_busy {s t : State} (h : step s = .next t) (hs : s.raced = true → s.busy = true) :
    t.raced = true → t.busy = true := by
  cases step_cases h with
  | hostOther ht pc d ns rf fs rc dr me _ eq =>
    intro hrc
    have hb : s.busy = true := ((step_host_memStep h ht).raced hrc).elim hs id
    simpa [eq] using hb
  | accepted _ _ _ _ _ _ _ eq => simp [eq]
  | performed _ _ _ _ _ _ eq => simp [eq]
  | asserted _ eq => simp [eq]
  | _ => rename_i eq; subst eq; simpa using hs

theorem busy_eq_false_of_registersReset {s : State} (h : s.registersReset = true) : s.busy = false := by
  cases hb : s.busy with
  | false => rfl
  | true => simp [State.registersReset, hb] at h

theorem assertReset_registersReset (s : State) : s.assertReset.registersReset = true := by
  simp [State.registersReset]

/-- Reset holds the registers: the host's writes are ignored, and no command is in flight for the engine
(70_reset_and_hazards.md R137). -/
theorem step_rst_registers {s t : State} (h : step s = .next t) (hs : s.rst = true → s.registersReset = true) :
    t.rst = true → t.registersReset = true := by
  cases step_cases h with
  | hostOther _ _ _ _ _ _ _ _ _ _ eq => exact eq ▸ hs
  | engineIdle _ _ eq => exact eq ▸ hs
  | writeCtrl _ hw eq => simp [eq, hw.rst_eq]
  | writeSrc _ hw eq => simp [eq, hw.rst_eq]
  | writeDst _ hw eq => simp [eq, hw.rst_eq]
  | writeStatus _ hw eq => simp [eq, hw.rst_eq]
  | rejected _ _ hw eq => simp [eq, hw.rst_eq]
  | accepted _ _ hw _ _ _ _ eq => simp [eq, hw.rst_eq]
  | performed _ _ hb _ _ _ eq =>
    intro hrst
    have hidle := busy_eq_false_of_registersReset (hs (by simpa [eq] using hrst))
    simp [hb] at hidle
  | asserted _ eq => exact fun _ => eq ▸ assertReset_registersReset _
  | released _ eq => simp [eq]

/-- The inval_o pulse is that of a completion (41_rotate.md R98). -/
theorem step_pulse_inval {s t : State} (h : step s = .next t) :
    t.invalO = true → t.inval = true ∧ t.done = true ∧ t.busy = false := by
  cases step_cases h with
  | performed i _ _ _ _ _ eq =>
    intro hp
    have hop : i.op = 0x1#4 := by simpa [eq] using hp
    simp [eq, hop]
  | _ => rename_i eq; subst eq; simp

/-- Settles O59, clause by clause. -/
theorem everyStepKeepsTheInvariant : Obligations.EveryStepKeepsTheInvariant := by
  intro s t hs h
  have hbuild := step_build h
  have herr := step_errorRecordOk h ⟨hs.errcode_legal, hs.errcode_errv⟩
  exact {
    build_valid := hbuild ▸ hs.build_valid
    mem_wf := step_mem_keeps hs h (fun m => m.wf = true) hs.mem_wf fun m a v _ => Memory.write_wf m a v
    mem_below := by
      rw [hbuild]
      exact step_mem_keeps hs h (fun m => m.below s.build.memBytes = true) hs.mem_below fun m a v =>
        Memory.write_below m a _ v
    scr_wf := step_scr_keeps h (fun m => m.wf = true) hs.scr_wf fun m a v _ => Memory.write_wf m a v
    scr_below := by
      rw [hbuild]
      exact step_scr_keeps h (fun m => m.below s.build.bufBytes = true) hs.scr_below fun m a v =>
        Memory.write_below m a _ v
    errcode_legal := herr.1
    errcode_errv := herr.2
    busy_done := step_busy_done h hs.busy_done
    busy_fits := step_busy_fits h hs.busy_fits
    raced_busy := step_raced_busy h hs.raced_busy
    rst_registers := step_rst_registers h hs.rst_registers
    pulse_inval := step_pulse_inval h }

/-! The engine's turn and the end of a command (10_state.md R32, R33). -/

/-- With BUSY = 1 the engine's turn is the perform step of the command in LCMD. -/
theorem step_performs {s t : State} (h : step s = .next t) (ht : s.turn = .engine) (hb : s.busy = true) :
    ∃ i, s.lcmd.instr = some i ∧ t = (effectOf i s.begin).complete := by
  obtain ⟨hr, -⟩ := step_next h
  rw [step_engine s hr ht] at h
  rcases engineTurn_next h with ⟨hb', -⟩ | ⟨-, i, hi, hx⟩
  · simp [hb] at hb'
  · rcases exec_next hx with ⟨-, -, -, rfl⟩ | ⟨hb', -⟩ | ⟨hb', -⟩ | ⟨hb', -⟩
    · exact ⟨i, hi, rfl⟩
    all_goals simp [hb] at hb'

/-- BUSY rises only in an acceptance (10_state.md R32). -/
theorem step_busy_rises {s t : State} (h : step s = .next t) (h0 : s.busy = false) (h1 : t.busy = true) :
    ∃ w i, s.hostCommands w ∧ decode w = .ok i ∧ rangeOk s.build i = true ∧
      boundsOk s.build s.srcBase s.dstBase i = true ∧ t = s.afterOp.accept (s.latch i) := by
  cases step_cases h with
  | accepted i w hw _ hd hr hi eq => exact ⟨w, i, hw, hd, hr, hi, eq⟩
  | _ => rename_i eq; subst eq; simp [h0] at h1

theorem step_busy_falls {s t : State} (h : step s = .next t) (h0 : s.busy = true) (h1 : t.busy = false) :
    s.turn = .engine ∨ s.resets := by
  cases step_cases h with
  | performed _ ht => exact .inl ht
  | asserted ht => exact .inr ht
  | _ => rename_i eq; subst eq; simp [h0] at h1

theorem step_lcmd_of_busy {s t : State} (h : step s = .next t) (h0 : s.busy = true) (h1 : t.busy = true) :
    t.lcmd = s.lcmd := by
  cases step_cases h with
  | accepted _ _ _ hb => simp [h0] at hb
  | performed _ _ _ _ _ _ eq => simp [eq] at h1
  | asserted _ eq => simp [eq] at h1
  | _ => rename_i eq; subst eq; simp

/-- Settles O20. -/
theorem busySpansTheCommand : Obligations.BusySpansTheCommand := by
  refine fun s t h => ⟨fun h0 h1 => ?_, step_busy_falls h, step_lcmd_of_busy h⟩
  obtain ⟨w, i, hw, hd, hr, hi, eq⟩ := step_busy_rises h h0 h1
  exact ⟨w, i, hw, hd, (rangeOk_iff _ _).1 hr, (boundsOk_iff _ _ _ _).1 hi, eq⟩

/-! DONE (10_state.md R33). -/

theorem step_done_rises {s t : State} (h : step s = .next t) (h0 : s.done = false) (h1 : t.done = true) :
    s.turn = .engine ∧ s.busy = true := by
  cases step_cases h with
  | performed _ ht hb => exact ⟨ht, hb⟩
  | _ => rename_i eq; subst eq; simp [h0] at h1

theorem step_done_falls {s t : State} (h : step s = .next t) (h0 : s.done = true) (h1 : t.done = false) :
    (∃ v, s.hostWrites 0x1C#6 v ∧ v.getLsbD 1 = true) ∨ (s.busy = false ∧ t.busy = true) ∨ s.resets := by
  cases step_cases h with
  | writeStatus v hw eq => exact .inl ⟨v, hw, by simpa [eq, h0] using h1⟩
  | accepted _ _ _ hb _ _ _ eq => exact .inr (.inl ⟨hb, by simp [eq]⟩)
  | asserted ht => exact .inr (.inr ht)
  | _ => rename_i eq; subst eq; simp [h0] at h1

/-- Settles O16. -/
theorem doneFollowsCompletion : Obligations.DoneFollowsCompletion := by
  refine fun s t h => ⟨step_done_rises h, fun ht hb => ?_, fun h0 h1 => ?_, step_done_falls h⟩
  · obtain ⟨i, -, rfl⟩ := step_performs h ht hb
    rfl
  · obtain ⟨_, _, -, -, -, -, rfl⟩ := step_busy_rises h h0 h1
    rfl

/-! INVAL (10_state.md R34). -/

theorem step_inval_of_rotate {s t : State} (h : step s = .next t) (hp : s.performs 0x1#4) : t.inval = true := by
  obtain ⟨ht, hb, hop⟩ := hp
  obtain ⟨i, hi, rfl⟩ := step_performs h ht hb
  simp [instr_op hi, hop]

theorem step_inval_rises {s t : State} (h : step s = .next t) (h0 : s.inval = false) (h1 : t.inval = true) :
    s.performs 0x1#4 := by
  cases step_cases h with
  | performed i ht hb hl _ _ eq =>
    have hop : i.op = 0x1#4 := by simpa [eq, h0] using h1
    exact ⟨ht, hb, instr_op hl ▸ hop⟩
  | _ => rename_i eq; subst eq; simp [h0] at h1

theorem step_inval_falls {s t : State} (h : step s = .next t) (h0 : s.inval = true) (h1 : t.inval = false) :
    (∃ v, s.hostWrites 0x1C#6 v ∧ v.getLsbD 2 = true) ∨ s.resets := by
  cases step_cases h with
  | writeStatus v hw eq => exact .inl ⟨v, hw, by simpa [eq, h0] using h1⟩
  | asserted ht => exact .inr ht
  | _ => rename_i eq; subst eq; simp [h0] at h1

/-- Settles O17. -/
theorem invalFollowsRotate : Obligations.InvalFollowsRotate :=
  fun _ _ h => ⟨step_inval_of_rotate h, step_inval_rises h, step_inval_falls h⟩

/-! The error record (10_state.md R35). -/

/-- ERRV rises only in a rejected CMD write (60_exceptions.md R116). -/
theorem step_errv_rises {s t : State} (h : step s = .next t) (h0 : s.errv = false) (h1 : t.errv = true) :
    ∃ r w, s.hostCommands w ∧ t = s.afterOp.reject r := by
  cases step_cases h with
  | rejected r w hw eq => exact ⟨r, w, hw, eq⟩
  | _ => rename_i eq; subst eq; simp [h0] at h1

theorem step_errcode_of_errv {s t : State} (h : step s = .next t) (h0 : s.errv = true) (h1 : t.errv = true) :
    t.errcode = s.errcode := by
  cases step_cases h with
  | writeStatus v _ eq =>
    have hv : v.getLsbD 3 = false := by simpa [eq, h0] using h1
    rw [eq, State.writeStatus_errcode, hv]
    rfl
  | rejected r _ _ eq => simp [eq, h0]
  | asserted _ eq => simp [eq] at h1
  | _ => rename_i eq; subst eq; simp

theorem step_errv_falls {s t : State} (h : step s = .next t) (h0 : s.errv = true) (h1 : t.errv = false) :
    (∃ v, s.hostWrites 0x1C#6 v ∧ v.getLsbD 3 = true) ∨ s.resets := by
  cases step_cases h with
  | writeStatus v hw eq => exact .inl ⟨v, hw, by simpa [eq, h0] using h1⟩
  | asserted ht => exact .inr ht
  | _ => rename_i eq; subst eq; simp [h0] at h1

/-- Settles O18. The codes 1 to 4 and the 0 while ERRV = 0 are the invariant's. -/
theorem errorRecordKeepsTheFirst : Obligations.ErrorRecordKeepsTheFirst := by
  intro s t hs h
  obtain ⟨hle, hzero⟩ := step_errorRecordOk h ⟨hs.errcode_legal, hs.errcode_errv⟩
  refine ⟨fun h0 h1 => ?_, step_errcode_of_errv h, step_errv_falls h, hzero.2⟩
  obtain ⟨r, w, hw, eq⟩ := step_errv_rises h h0 h1
  have hpos : t.errcode ≠ 0#4 := fun hz => by simpa [h1] using hzero.1 hz
  refine ⟨⟨w, hw⟩, ?_, hle, by simp [eq], by simp [eq]⟩
  exact Nat.pos_of_ne_zero fun hz => hpos (BitVec.eq_of_toNat_eq hz)

/-! RESULT (10_state.md R36). -/

/-- Settles O19. -/
theorem resultChangesOnlyByGetpix : Obligations.ResultChangesOnlyByGetpix := by
  intro s t h hne
  cases step_cases h with
  | performed i ht hb hl _ _ eq =>
    have hop : i.op = 0x3#4 := by
      by_contra hop
      exact hne (by rw [eq, State.complete_pixel, effectOf_pixel i s.begin hop, State.begin_pixel])
    exact .inl ⟨⟨ht, hb, instr_op hl ▸ hop⟩, by simp [eq]⟩
  | asserted ht => exact .inr ht
  | _ => rename_i eq; subst eq; simp at hne

/-! The fault records, the refusal flag and the end of a run (10_state.md R45, R46). -/

theorem step_faults_grow {s t : State} (h : step s = .next t) {r : FaultRecord} (hr : r ∈ s.faults) : r ∈ t.faults := by
  cases step_cases h with
  | hostOther _ _ _ _ _ fs _ _ _ hf eq => simpa [eq] using hf r hr
  | _ => rename_i eq; subst eq; simpa using hr

theorem final_iff (s : State) :
    s.final = true ↔ s.nextOp = none ∧ s.busy = false ∧ s.faults = [] ∧ s.refused = false := by
  simp [State.final, and_assoc]

/-- Settles O44. -/
theorem faultRecordsOnlyGrow : Obligations.FaultRecordsOnlyGrow := by
  refine ⟨fun s t h r => step_faults_grow h, fun s t h => ((State.runs_iff s).1 (step_next h).1).1, fun s hs => ?_⟩
  refine Bool.eq_false_iff.2 fun hfinal => ?_
  obtain ⟨-, hb, hf, hr⟩ := (final_iff s).1 hfinal
  simp [hb, hf, hr] at hs

/-- The engine without a command, and the host without an operation, only begin their turn. -/
theorem step_idle {s : State} (hr : s.runs = true) (hb : s.busy = false)
    (h : s.turn = .engine ∨ (s.turn = .host ∧ s.nextOp = none)) : step s = .next s.begin := by
  rcases h with ht | ⟨ht, hn⟩
  · rw [step_engine s hr ht]
    simp [State.engineTurn, hb]
  · rw [step_host s hr ht]
    simp [State.hostTurn, hn]

/-- Settles O53. -/
theorem idleBlockDoesNothing : Obligations.IdleBlockDoesNothing :=
  fun _ hr hb h => step_idle hr hb h

/-- Settles O58. -/
theorem finalStateStaysFinal : Obligations.FinalStateStaysFinal := by
  intro s hf hr hturn
  obtain ⟨hn, hb, -, -⟩ := (final_iff s).1 hf
  have hidle : s.turn = .engine ∨ (s.turn = .host ∧ s.nextOp = none) := by
    cases ht : s.turn with
    | host => exact .inr ⟨rfl, hn⟩
    | engine => exact .inl rfl
    | reset level => exact absurd ht (hturn level)
  exact ⟨s.begin, step_idle hr hb hidle, rfl, hf⟩

/-- Settles O52. -/
theorem stepPerformsTheLatchedCommand : Obligations.StepPerformsTheLatchedCommand := by
  refine ⟨fun s i hr ht hb hi => ?_, fun s i hw => latch_instr s i hw⟩
  rw [step_engine s hr ht, State.engineTurn, State.begin_busy, hb, if_pos rfl, State.begin_lcmd, hi]

/-! The register window (10_state.md section 3). -/

/-- The three constant registers read the build alone (10_state.md R24, R25, R26). -/
theorem registerValue_of_build {s t : State} (h : t.build = s.build) {off : Nat} (hoff : off ∈ [0x00, 0x04, 0x08]) :
    registerValue t off = registerValue s off := by
  simp only [List.mem_cons, List.not_mem_nil, or_false] at hoff
  rcases hoff with rfl | rfl | rfl <;> simp [registerValue, h]

/-- Settles O55. -/
theorem buildConstantsNeverChange : Obligations.BuildConstantsNeverChange :=
  fun _ _ h => ⟨step_build h, fun _ => registerValue_of_build (step_build h)⟩

/-- PARAM as a number: STRIDE in the upper half and N in the lower (10_state.md R25). -/
theorem param_word (b : Build) (hv : b.valid = true) :
    BitVec.ofNat 16 b.stride ++ BitVec.ofNat 16 b.n = BitVec.ofNat 32 (65536 * b.stride + b.n) := by
  obtain ⟨-, hn, -, -, -⟩ := b.valid_iff.1 hv
  have hs : b.stride ≤ 64 := b.stride_le_of_dvd hv (b.strideAlign_dvd_64 hv) (by omega)
  apply BitVec.eq_of_toNat_eq
  rw [BitVec.toNat_append, BitVec.toNat_ofNat, BitVec.toNat_ofNat, BitVec.toNat_ofNat,
    Nat.mod_eq_of_lt (show b.stride < 2 ^ 16 by omega), Nat.mod_eq_of_lt (show b.n < 2 ^ 16 by omega),
    ← Nat.shiftLeft_add_eq_or_of_lt (by omega), Nat.shiftLeft_eq, Nat.mul_comm]
  omega

theorem ctrl_word (irqEn dir : Bool) : ctrlBits irqEn dir = BitVec.ofNat 32 (2 * irqEn.toNat + dir.toNat) := by
  cases irqEn <;> cases dir <;> rfl

/-- STATUS as a number, over its 256 values (10_state.md R31). -/
theorem status_word (s : State) :
    s.statusWord =
      BitVec.ofNat 32
        (16 * s.errcode.toNat + 8 * s.errv.toNat + 4 * s.inval.toNat + 2 * s.done.toNat + s.busy.toNat) := by
  have hall : ∀ (c : BitVec 4) (e i d b : Bool),
      c.setWidth 32 <<< 4 ||| flagAt e 3 ||| flagAt i 2 ||| flagAt d 1 ||| flagAt b 0 =
        BitVec.ofNat 32 (16 * c.toNat + 8 * e.toNat + 4 * i.toNat + 2 * d.toNat + b.toNat) := by decide
  exact hall _ _ _ _ _

theorem result_word (s : State) : s.resultWord = BitVec.ofNat 32 s.pixel.toNat := by
  unfold State.resultWord
  cases s.pixel <;> rfl

/-- The register at an offset, by the number of the offset (10_state.md section 3). -/
theorem regAt_eq (off : BitVec 6) :
    regAt off =
      if off.toNat = 0x00 then .id else if off.toNat = 0x04 then .param else if off.toNat = 0x08 then .memTop
      else if off.toNat = 0x0C then .ctrl else if off.toNat = 0x10 then .srcBase else if off.toNat = 0x14 then .dstBase
      else if off.toNat = 0x18 then .cmd else if off.toNat = 0x1C then .status else if off.toNat = 0x20 then .result
      else .reserved := by
  revert off; decide

theorem readReg_regAt (s : State) (hv : s.build.valid = true) (off : BitVec 6) :
    s.readReg (regAt off) = registerValue s off.toNat := by
  rw [regAt_eq]
  unfold registerValue
  split_ifs
  any_goals rfl
  · exact param_word s.build hv
  · exact ctrl_word _ _
  · omega
  · omega
  · exact status_word s
  · exact result_word s

theorem wordAccess_iff (off : BitVec 6) (size : AccessSize) :
    wordAccess off size = true ↔ off.toNat % 4 = 0 ∧ size = .word := by
  simp [wordAccess]

/-- Settles O13. -/
theorem registerReadReturnsItsValue : Obligations.RegisterReadReturnsItsValue := by
  intro s off name hr ht hoff hn
  have hread : s.begin.readReg (regAt off) = registerValue s off.toNat :=
    readReg_regAt s.begin ((State.runs_iff s).1 hr).2 off
  refine ⟨_, ?_, rfl, nameValue_bind_same { s.afterOp with rdata := registerValue s off.toNat } name _,
    fun k hk => nameValue_bind_other _ _ hk⟩
  rw [step_hostOp hr ht hn, State.hostOp, if_pos ((wordAccess_iff off .word).2 ⟨hoff, rfl⟩), hread]
  rfl

theorem writeStatus_eq (s : State) (v : Word) : s.writeStatus v = registerWritten s 0x1C v := by
  unfold State.writeStatus
  simp only [registerWritten]
  cases v.getLsbD 1 <;> cases v.getLsbD 2 <;> cases v.getLsbD 3 <;> simp

/-- A taken write of a register other than CMD (10_state.md section 3). -/
theorem writeReg_regAt {s : State} (hrst : s.rst = false) {off : BitVec 6} (hoff : off ≠ 0x18#6) (v : Word) :
    s.writeReg (regAt off) v = .next (registerWritten s off.toNat v) := by
  have hcmd : off.toNat ≠ 0x18 := fun h => hoff (BitVec.eq_of_toNat_eq h)
  unfold State.writeReg
  rw [if_neg (by simp [hrst]), regAt_eq]
  split_ifs with hid hparam hmem hctrl hsrc hdst hstatus
  · simp [registerWritten, hid]
  · simp [registerWritten, hparam]
  · simp [registerWritten, hmem]
  · simp [registerWritten, hctrl, State.writeCtrl]
  · simp [registerWritten, hsrc]
  · simp [registerWritten, hdst]
  · rw [hstatus, ← writeStatus_eq]
  · simp [registerWritten, *]
  · simp [registerWritten, *]

/-- Settles O14. -/
theorem registerWriteTakesEffect : Obligations.RegisterWriteTakesEffect := by
  intro s off v hr hw halign hoff
  obtain ⟨ht, hrst, hn⟩ := hw
  rw [step_hostOp hr ht hn, State.hostOp, if_pos ((wordAccess_iff off .word).2 ⟨halign, rfl⟩), begin_advance]
  exact writeReg_regAt (s := s.afterOp) hrst hoff v

/-- An access that is no aligned word raises the refusal flag alone (10_state.md R40). -/
theorem hostOp_subword {s : State} {off : BitVec 6} {size : AccessSize} {o : HostOp}
    (hbad : off.toNat % 4 ≠ 0 ∨ size ≠ .word)
    (ho : (∃ v, o = .regWrite off size v) ∨ ∃ name, o = .regRead off size name) :
    s.hostOp o = .next { s.advance with refused := true } := by
  have hacc : ¬wordAccess off size = true := by
    rw [wordAccess_iff]
    tauto
  rcases ho with ⟨v, rfl⟩ | ⟨name, rfl⟩ <;> rw [State.hostOp, if_neg hacc]

/-- Settles O15. -/
theorem subwordAccessIsRefused : Obligations.SubwordAccessIsRefused := by
  refine ⟨fun s off size o hr ht hbad ho hn => ?_, fun s h => by simp [step, h]⟩
  refine ⟨_, (step_hostOp hr ht hn).trans (hostOp_subword hbad ho), rfl, ?_⟩
  simp [State.final]

end Machine
end Sys2Proof

/-! The statements from 20_memory.md: the canonical form of memory, the host's byte accesses that are no hazard and
those that are (R62), and the completion of a command that a hazard has struck. -/

namespace Sys2Proof.Machine

/-! The canonical form (log 2). -/

theorem Memory.wfFrom_cons (lo k : Nat) (v : Byte) (rest : Memory) :
    Memory.wfFrom lo ((k, v) :: rest) = true ↔ lo ≤ k ∧ Memory.wfFrom (k + 1) rest = true := by
  simp [Memory.wfFrom]

/-- A canonical memory lists no byte below its bound. -/
theorem Memory.le_of_entry {m : Memory} {lo a : Nat} {v : Byte} (hm : Memory.wfFrom lo m = true)
    (h : m.entry a = some v) : lo ≤ a := by
  by_contra hlt
  simp [Memory.entry_below_first m lo a hm (Nat.lt_of_not_le hlt)] at h

theorem Memory.entry_head (k : Nat) (v : Byte) (rest : Memory) : Memory.entry ((k, v) :: rest) k = some v := by
  simp [Memory.entry_cons]

/-- A canonical memory that lists the first byte of another starts at or below it. -/
theorem Memory.head_le_of_entry_eq {k k' : Nat} {v v' : Byte} {rest rest' : Memory}
    (hm' : Memory.wfFrom (k' + 1) rest' = true)
    (h : Memory.entry ((k, v) :: rest) k = Memory.entry ((k', v') :: rest') k) : k' ≤ k := by
  rw [Memory.entry_head] at h
  exact Memory.le_of_entry ((Memory.wfFrom_cons k' k' v' rest').2 ⟨Nat.le_refl _, hm'⟩) h.symm

/-- The written bytes of a canonical memory without its first one. -/
theorem Memory.entry_tail {k : Nat} {rest : Memory} (hm : Memory.wfFrom (k + 1) rest = true) (v : Byte) (a : Nat) :
    Memory.entry rest a = if k = a then none else Memory.entry ((k, v) :: rest) a := by
  by_cases hk : k = a
  · rw [if_pos hk]
    exact Memory.entry_below_first rest (k + 1) a hm (by omega)
  · rw [if_neg hk, Memory.entry_cons, if_neg hk]

/-- A canonical memory is given by its written bytes: the heads are the least of them, and the tails have the rest. -/
theorem Memory.eq_of_entry_eq {m m' : Memory} {lo : Nat} (hm : Memory.wfFrom lo m = true)
    (hm' : Memory.wfFrom lo m' = true) (h : ∀ a, m.entry a = m'.entry a) : m = m' := by
  induction m generalizing m' lo with
  | nil =>
    cases m' with
    | nil => rfl
    | cons c' rest' =>
      obtain ⟨k', v'⟩ := c'
      simpa [Memory.entry_head] using h k'
  | cons c rest ih =>
    obtain ⟨k, v⟩ := c
    cases m' with
    | nil => simpa [Memory.entry_head] using h k
    | cons c' rest' =>
      obtain ⟨k', v'⟩ := c'
      obtain ⟨-, hrest⟩ := (Memory.wfFrom_cons _ _ _ _).1 hm
      obtain ⟨-, hrest'⟩ := (Memory.wfFrom_cons _ _ _ _).1 hm'
      obtain rfl : k = k' :=
        Nat.le_antisymm (Memory.head_le_of_entry_eq hrest (h k').symm) (Memory.head_le_of_entry_eq hrest' (h k))
      obtain rfl : v = v' := by simpa [Memory.entry_head] using h k
      have htail : ∀ a, Memory.entry rest a = Memory.entry rest' a := fun a => by
        rw [Memory.entry_tail hrest v, Memory.entry_tail hrest' v, h a]
      rw [ih hrest hrest' htail]

/-- Settles O12. -/
theorem canonicalMemoryIsUnique : Obligations.CanonicalMemoryIsUnique :=
  fun _ _ hm hm' h => Memory.eq_of_entry_eq hm hm' h

/-! The hazards of R62, and the host's byte accesses with and without one. -/

theorem writeHazard_eq_false_iff (s : State) (a : Word) :
    s.writeHazard a = false ↔
      (s.busy = true →
        (readSet s.build s.lcmd).has a.toNat = false ∧ (writeSet s.build s.lcmd).has a.toNat = false) := by
  cases hb : s.busy <;> simp [State.writeHazard, hb]

theorem writeHazard_iff (s : State) (a : Word) :
    s.writeHazard a = true ↔
      s.busy = true ∧
        ((readSet s.build s.lcmd).has a.toNat = true ∨ (writeSet s.build s.lcmd).has a.toNat = true) := by
  simp [State.writeHazard]

theorem readHazard_eq_false_iff (s : State) (a : Word) :
    s.readHazard a = false ↔ (s.busy = true → (writeSet s.build s.lcmd).has a.toNat = false) := by
  cases hb : s.busy <;> simp [State.readHazard, hb]

theorem readHazard_iff (s : State) (a : Word) :
    s.readHazard a = true ↔ s.busy = true ∧ (writeSet s.build s.lcmd).has a.toNat = true := by
  simp [State.readHazard]

section
variable {s : State} {a : Word} (ha : a.toNat < s.build.memBytes)
include ha

theorem hostMemWrite_of_no_hazard (hz : s.writeHazard a = false) (v : Byte) :
    s.hostMemWrite a v = .next { s with mem := s.mem.write a.toNat v } := by
  simp [State.hostMemWrite, ha, hz]

/-- The write of a hazard lands all the same (log 8). -/
theorem hostMemWrite_of_hazard (hz : s.writeHazard a = true) (v : Byte) :
    s.hostMemWrite a v =
      .next { s.recordHazard (.concurrentAccess a true) with mem := s.mem.write a.toNat v } := by
  simp [State.hostMemWrite, ha, hz]

theorem hostMemRead_of_no_hazard (hz : s.readHazard a = false) (name : Nat) :
    s.hostMemRead a name = .next (s.bind name (BitVec.ofNat 32 (s.mem.read a.toNat).toNat)) := by
  simp [State.hostMemRead, ha, hz]

/-- The read of a hazard binds a free byte (log 8). -/
theorem hostMemRead_of_hazard (hz : s.readHazard a = true) (name : Nat) :
    s.hostMemRead a name =
      .next ({ s.recordHazard (.concurrentAccess a false) with draws := s.draws + 1 }.bind name
        ((Config.freeByte s.draws).setWidth 32)) := by
  simp [State.hostMemRead, ha, hz]

end

theorem step_memWrite {s : State} {a : Word} {v : Byte} (hr : s.runs = true) (ht : s.turn = .host)
    (hn : s.nextOp = some (.memWrite a v)) : step s = s.afterOp.hostMemWrite a v := by
  rw [step_hostOp hr ht hn, State.hostOp, begin_advance]

theorem step_memRead {s : State} {a : Word} {name : Nat} (hr : s.runs = true) (ht : s.turn = .host)
    (hn : s.nextOp = some (.memRead a name)) : step s = s.afterOp.hostMemRead a name := by
  rw [step_hostOp hr ht hn, State.hostOp, begin_advance]

/-- Settles O41: an access that is no hazard is the plain write or read of its byte. -/
theorem hostByteAccessOutsideTheCommand : Obligations.HostByteAccessOutsideTheCommand := by
  refine fun s a hr ht ha => ⟨fun v hn hout => ?_, fun name hn hout => ?_⟩
  · have hz : s.afterOp.writeHazard a = false := (writeHazard_eq_false_iff s.afterOp a).2 hout
    exact ⟨_, (step_memWrite hr ht hn).trans (hostMemWrite_of_no_hazard (s := s.afterOp) ha hz v), rfl,
      fun k => Memory.read_write _ _ k v⟩
  · have hz : s.afterOp.readHazard a = false := (readHazard_eq_false_iff s.afterOp a).2 hout
    exact ⟨_, (step_memRead hr ht hn).trans (hostMemRead_of_no_hazard (s := s.afterOp) ha hz name), rfl,
      nameValue_bind_same _ _ _, fun k hk => nameValue_bind_other _ _ hk⟩

/-- The fault records are a set, which a hazard adds its record to (10_state.md R45). -/
theorem mem_recordHazard_faults (s : State) (r q : FaultRecord) :
    q ∈ (s.recordHazard r).faults ↔ q ∈ s.faults ∨ q = r := by
  rw [State.recordHazard_faults]
  split
  · rename_i hr
    exact ⟨.inl, fun h => h.elim id fun hq => hq ▸ hr⟩
  · rw [List.mem_cons, or_comm]

theorem final_of_busy {s : State} (hb : s.busy = true) : s.final = false := by
  obtain ⟨-, -, hnotFinal⟩ := faultRecordsOnlyGrow
  exact hnotFinal s (.inr (.inr hb))

/-- Settles O42. -/
theorem concurrentAccessIsRecorded : Obligations.ConcurrentAccessIsRecorded := by
  refine fun s a hr ht hb ha => ⟨fun v hn hin => ?_, fun name hn hin => ?_⟩
  · have hz : s.afterOp.writeHazard a = true := (writeHazard_iff s.afterOp a).2 ⟨hb, hin⟩
    exact ⟨_, (step_memWrite hr ht hn).trans (hostMemWrite_of_hazard (s := s.afterOp) ha hz v), rfl,
      mem_recordHazard_faults s.afterOp _, final_of_busy hb, fun k hk => Memory.read_write_other _ v hk⟩
  · have hz : s.afterOp.readHazard a = true := (readHazard_iff s.afterOp a).2 ⟨hb, hin⟩
    exact ⟨_, (step_memRead hr ht hn).trans (hostMemRead_of_hazard (s := s.afterOp) ha hz name), rfl,
      mem_recordHazard_faults s.afterOp _, final_of_busy hb⟩

/-! A command that a hazard has struck (R62, log 8). -/

theorem Span.has_eq_false_iff (r : Span) (a : Nat) : r.has a = false ↔ ¬(r.start ≤ a ∧ a < r.start + r.len) := by
  simp [Span.has]

theorem scrambleMem_read_outside (s : State) (r : Span) {a : Nat} (h : r.has a = false) :
    (s.scrambleMem r).mem.read a = s.mem.read a :=
  Memory.read_scramble_outside s.mem r.start r.len s.draws a ((Span.has_eq_false_iff r a).1 h)

/-- The operands of a SETPIX in LCMD are the fields X and Y. -/
theorem instr_setpix {l : Latched} {x y : Nat} {v : Bool} (h : l.instr = some (.setpix x y v)) :
    x = l.x.toNat ∧ y = l.y.toNat := by
  have hop : l.op = 0x4#4 := (instr_op h).symm
  obtain ⟨hx, hy, -⟩ : l.x.toNat = x ∧ l.y.toNat = y ∧ l.v = v := by simpa [Latched.instr, hop] using h
  exact ⟨hx.symm, hy.symm⟩

/-- WR by the command and its destination base (20_memory.md section 5). -/
def spanWritten (b : Build) (db : Word) : Instr → Span
  | .nop => emptySpan
  | .rotate => region b db
  | .clear => region b db
  | .getpix _ _ => emptySpan
  | .setpix x y _ => pixelSpan b db x y

theorem writeSet_of_instr (b : Build) {l : Latched} {i : Instr} (h : l.instr = some i) :
    writeSet b l = spanWritten b l.db i := by
  have hop := instr_op h
  cases i with
  | setpix x y v =>
    obtain ⟨rfl, rfl⟩ := instr_setpix h
    simp [writeSet, spanWritten, ← hop, Instr.op]
  | _ => simp [writeSet, spanWritten, ← hop, Instr.op]

/-- A struck command leaves the bytes outside its write set. -/
theorem effectOf_read_outside_of_raced {s : State} {i : Instr} (hraced : s.raced = true) (hi : s.lcmd.instr = some i)
    {a : Nat} (ha : (writeSet s.build s.lcmd).has a = false) : (effectOf i s).mem.read a = s.mem.read a := by
  rw [writeSet_of_instr s.build hi] at ha
  cases i with
  | nop => rfl
  | rotate =>
    rw [effectOf, State.rotateBuffer, if_pos hraced]
    exact scrambleMem_read_outside s.scrambleScr _ ha
  | clear =>
    rw [effectOf, State.clearBuffer, if_pos hraced]
    exact scrambleMem_read_outside s _ ha
  | getpix x y => rw [effectOf, State.readPixel, if_pos hraced]
  | setpix x y v =>
    rw [effectOf, State.writePixel, if_pos hraced]
    exact scrambleMem_read_outside s _ ha

/-- A command in flight whose latched operands fit completes. -/
theorem exec_of_fits {s : State} {i : Instr} (hb : s.busy = true) (hi : s.lcmd.instr = some i)
    (hfits : s.lcmd.fits s.build = true) : exec i s = .next (effectOf i s).complete := by
  rw [exec_busy i s hb, if_pos (fits_of_instr s.build hi ▸ hfits)]

/-- Settles O29. -/
theorem struckCommandStillCompletes : Obligations.StruckCommandStillCompletes := by
  intro s i _ hb hraced hi hfits
  refine ⟨_, exec_of_fits hb hi hfits, ?_, fun hop => effectOf_scr i s ?_, effectOf_pixel i s,
    fun a => effectOf_read_outside_of_raced hraced hi⟩
  · exact congrArg State.complete (effectOf_shape i s)
  · rintro rfl
    exact hop rfl

end Sys2Proof.Machine

/-! The statements from 30_encoding.md about the command word: decoding and encoding are inverse, the opcode table,
and the rejection of a word that is no command. `decode_eq_ok_iff` says once which words decode as which commands. -/

namespace Sys2Proof

/-! Masks and fields (30_encoding.md R68, R71). -/

/-- A field that a mask covers reads the same in the masked word. -/
theorem extractLsb'_of_and_eq {w m p : Word} {start len : Nat} (hm : m.extractLsb' start len = BitVec.allOnes len)
    (h : w &&& m = p) : w.extractLsb' start len = p.extractLsb' start len := by
  rw [← h, BitVec.extractLsb'_and, hm, BitVec.and_allOnes]

/-- What SETPIX's mask covers of a packed word: the OP and the must-be-zero bits. -/
theorem packFields_and_setpix_mask (y x : BitVec 8) (v : Bool) (op : BitVec 4) :
    packFields y x v op &&& 0x0000FEFF#32 = op.setWidth 32 := by
  refine BitVec.eq_of_getLsbD_eq fun k hk => ?_
  rw [BitVec.getLsbD_and, packFields_bit y x v op k hk]
  interval_cases k <;> simp

/-- GETPIX's mask covers the V bit too. -/
theorem packFields_and_getpix_mask (y x : BitVec 8) (op : BitVec 4) :
    packFields y x false op &&& 0x0000FFFF#32 = op.setWidth 32 := by
  refine BitVec.eq_of_getLsbD_eq fun k hk => ?_
  rw [BitVec.getLsbD_and, packFields_bit y x false op k hk]
  interval_cases k <;> simp

theorem encode_getpix_row (x y : Nat) : encode (.getpix x y) &&& 0x0000FFFF#32 = 0x00000003#32 :=
  packFields_and_getpix_mask _ _ 0x3#4

theorem encode_setpix_row (x y : Nat) (v : Bool) : encode (.setpix x y v) &&& 0x0000FEFF#32 = 0x00000004#32 :=
  packFields_and_setpix_mask _ _ v 0x4#4

/-- A word whose must-be-zero bits 15:9 and 7:4 are 0 is made of its fields. -/
theorem packFields_fields {w : Word} (hhigh : w.extractLsb' 9 7 = 0#7) (hlow : w.extractLsb' 4 4 = 0#4) :
    packFields (BitVec.ofNat 8 (yField w)) (BitVec.ofNat 8 (xField w)) (vField w) (opField w) = w := by
  have hbit (start len k : Nat) (hk : k < len) : (w.extractLsb' start len).getLsbD k = w.getLsbD (start + k) := by
    simp [hk]
  refine BitVec.eq_of_getLsbD_eq fun k hk => ?_
  rw [packFields_bit _ _ _ _ k hk]
  simp only [yField, xField, vField, opField, BitVec.ofNat_toNat, BitVec.setWidth_eq]
  split_ifs with hop hv hzero hx
  · rw [hbit _ _ _ hop, Nat.zero_add]
  · rw [hv]
  · rcases Nat.lt_or_ge k 8 with hk8 | hk8
    · have := hbit 4 4 (k - 4) (by omega)
      rw [hlow, BitVec.getLsbD_zero, Nat.add_sub_cancel' (by omega)] at this
      exact this
    · have := hbit 9 7 (k - 9) (by omega)
      rw [hhigh, BitVec.getLsbD_zero, Nat.add_sub_cancel' (by omega)] at this
      exact this
  · rw [hbit _ _ _ (by omega), Nat.add_sub_cancel' (by omega)]
  · rw [hbit _ _ _ (by omega), Nat.add_sub_cancel' (by omega)]

/-- GETPIX's must-be-zero bits 15:4 are those of SETPIX and the V bit. -/
theorem zero_bits_of_getpix {w : Word} (h : w.extractLsb' 4 12 = 0#12) :
    w.extractLsb' 9 7 = 0#7 ∧ w.extractLsb' 4 4 = 0#4 ∧ vField w = false := by
  have hbit (k : Nat) (hk : k < 12) : w.getLsbD (4 + k) = false := by
    have := congrArg (·.getLsbD k) h
    simpa [hk] using this
  refine ⟨BitVec.eq_of_getLsbD_eq fun k hk => ?_, BitVec.eq_of_getLsbD_eq fun k hk => ?_, hbit 4 (by omega)⟩
  · have := hbit (5 + k) (by omega)
    simpa [hk, ← Nat.add_assoc] using this
  · simpa [hk] using hbit k (by omega)

/-! Decoding and encoding are inverse (30_encoding.md R71, R72, R77). -/

theorem decode_getpix {w : Word} (hop : opField w = 0x3#4) (hzero : w.extractLsb' 4 12 = 0#12) :
    decode w = .ok (.getpix (xField w) (yField w)) := by
  simp [decode, hop, hzero]

theorem decode_setpix {w : Word} (hop : opField w = 0x4#4) (hhigh : w.extractLsb' 9 7 = 0#7)
    (hlow : w.extractLsb' 4 4 = 0#4) : decode w = .ok (.setpix (xField w) (yField w) (vField w)) := by
  simp [decode, hop, hhigh, hlow]

/-- A word in GETPIX's row of the opcode table (30_encoding.md R71). -/
theorem decode_of_getpix_row {w : Word} (h : w &&& 0x0000FFFF#32 = 0x00000003#32) :
    decode w = .ok (.getpix (xField w) (yField w)) :=
  decode_getpix (extractLsb'_of_and_eq (by decide) h) (extractLsb'_of_and_eq (by decide) h)

/-- A word in SETPIX's row of the opcode table (30_encoding.md R71). -/
theorem decode_of_setpix_row {w : Word} (h : w &&& 0x0000FEFF#32 = 0x00000004#32) :
    decode w = .ok (.setpix (xField w) (yField w) (vField w)) :=
  decode_setpix (extractLsb'_of_and_eq (by decide) h) (extractLsb'_of_and_eq (by decide) h)
    (extractLsb'_of_and_eq (by decide) h)

/-- Settles O1: the encoded word is in its command's row, and its fields hold the operands. -/
theorem decodeInvertsEncode : Obligations.DecodeInvertsEncode := by
  intro i hwf
  cases i with
  | nop => decide
  | rotate => decide
  | clear => decide
  | getpix x y =>
    obtain ⟨-, hx, hy, -⟩ := Laws.EncodedFields.getpix x y hwf
    rw [decode_of_getpix_row (encode_getpix_row x y), hx, hy]
    rfl
  | setpix x y v =>
    obtain ⟨-, hx, hy, hv⟩ := Laws.EncodedFields.setpix x y v hwf
    rw [decode_of_setpix_row (encode_setpix_row x y v), hx, hy, hv]
    rfl

/-- A legal word is made of its command's fields: the decoder's tests leave no other bit. -/
theorem encode_of_decode {w : Word} {i : Instr} (h : decode w = .ok i) : encode i = w := by
  unfold decode at h
  dsimp only at h
  split_ifs at h with hop hw hop hw hop hw hop hzero hop hzero <;> cases h
  · exact hw.symm
  · exact hw.symm
  · exact hw.symm
  · obtain ⟨hhigh, hlow, hv⟩ := zero_bits_of_getpix hzero
    have hfields := packFields_fields hhigh hlow
    rwa [hop, hv] at hfields
  · have hfields := packFields_fields hzero.1 hzero.2
    rwa [hop] at hfields

/-- Settles O2. -/
theorem encodeInvertsDecode : Obligations.EncodeInvertsDecode := fun _ _ h => ⟨decode_wf h, encode_of_decode h⟩

theorem decode_eq_ok_iff (w : Word) (i : Instr) : decode w = .ok i ↔ i.wf = true ∧ encode i = w :=
  ⟨encodeInvertsDecode w i, fun ⟨hwf, hw⟩ => hw ▸ decodeInvertsEncode i hwf⟩

/-- A legal word carries its command's OP (30_encoding.md R69). -/
theorem opField_of_decode {w : Word} {i : Instr} (h : decode w = .ok i) : opField w = i.op := by
  rw [← encode_of_decode h]
  exact opField_packFields _ _ _ _

/-- Settles O6: each example word is its command's encoding. -/
theorem exampleWordsDecode : Obligations.ExampleWordsDecode :=
  ⟨decodeInvertsEncode .nop rfl, decodeInvertsEncode .rotate rfl, decodeInvertsEncode .clear rfl,
    decodeInvertsEncode (.getpix 0 0) rfl, decodeInvertsEncode (.getpix 7 0) rfl,
    decodeInvertsEncode (.getpix 3 5) rfl, decodeInvertsEncode (.setpix 3 5 true) rfl,
    decodeInvertsEncode (.setpix 3 5 false) rfl, decodeInvertsEncode (.setpix 255 255 true) rfl,
    decodeInvertsEncode (.setpix 0 0 true) rfl⟩

/-! The opcode table (30_encoding.md R71). -/

theorem xField_eq_div (w : Word) : xField w = w.toNat / 65536 % 256 := by
  rw [xField, BitVec.extractLsb'_toNat, Nat.shiftRight_eq_div_pow]

theorem yField_eq_div (w : Word) : yField w = w.toNat / 16777216 := by
  have := w.isLt
  rw [yField, BitVec.extractLsb'_toNat, Nat.shiftRight_eq_div_pow]
  omega

theorem vField_eq_decide (w : Word) : vField w = decide (w.toNat / 256 % 2 = 1) :=
  Nat.testBit_eq_decide_div_mod_eq

theorem decode_getpix_iff (w : Word) (x y : Nat) :
    decode w = .ok (.getpix x y) ↔ w &&& 0x0000FFFF#32 = 0x00000003#32 ∧ x = xField w ∧ y = yField w := by
  constructor
  · intro h
    have hrow : w &&& 0x0000FFFF#32 = 0x00000003#32 := by
      rw [← encode_of_decode h]
      exact encode_getpix_row x y
    rw [decode_of_getpix_row hrow] at h
    cases h
    exact ⟨hrow, rfl, rfl⟩
  · rintro ⟨hrow, rfl, rfl⟩
    exact decode_of_getpix_row hrow

theorem decode_setpix_iff (w : Word) (x y : Nat) (v : Bool) :
    decode w = .ok (.setpix x y v) ↔
      w &&& 0x0000FEFF#32 = 0x00000004#32 ∧ x = xField w ∧ y = yField w ∧ v = vField w := by
  constructor
  · intro h
    have hrow : w &&& 0x0000FEFF#32 = 0x00000004#32 := by
      rw [← encode_of_decode h]
      exact encode_setpix_row x y v
    rw [decode_of_setpix_row hrow] at h
    cases h
    exact ⟨hrow, rfl, rfl, rfl⟩
  · rintro ⟨hrow, rfl, rfl, rfl⟩
    exact decode_of_setpix_row hrow

theorem OpRow.matchesWord_iff (r : OpRow) (w : Word) : r.matchesWord w = true ↔ w &&& r.mask = r.pattern :=
  beq_iff_eq

/-- Every mask covers the OP field, so a word matches the row of its own OP only. -/
theorem opField_of_matchesWord {r : OpRow} (hr : r ∈ opRows) {w : Word} (h : r.matchesWord w = true) :
    opField w = r.op := by
  have hrows : ∀ r ∈ opRows, r.mask.extractLsb' 0 4 = BitVec.allOnes 4 ∧ r.pattern.extractLsb' 0 4 = r.op := by
    decide
  obtain ⟨hmask, hpattern⟩ := hrows r hr
  exact (extractLsb'_of_and_eq hmask ((r.matchesWord_iff w).1 h)).trans hpattern

/-- Settles O3. -/
theorem legalEncodingsAreTheTable : Obligations.LegalEncodingsAreTheTable := by
  have hfixed (w : Word) {i : Instr} (hi : i.wf = true) : decode w = .ok i ↔ w &&& 0xFFFFFFFF#32 = encode i := by
    rw [show w &&& 0xFFFFFFFF#32 = w from BitVec.and_allOnes, decode_eq_ok_iff, eq_comm (a := w)]
    exact and_iff_right hi
  refine ⟨fun w => hfixed w rfl, fun w => hfixed w rfl, fun w => hfixed w rfl, fun w x y => ?_, fun w x y v => ?_, ?_⟩
  · rw [decode_getpix_iff, xField_eq_div, yField_eq_div]
  · rw [decode_setpix_iff, xField_eq_div, yField_eq_div, vField_eq_decide]
  · have hop : opRows.Pairwise fun r r' => r.op ≠ r'.op := by decide
    refine hop.imp_of_mem fun hr hr' hne w hboth => ?_
    exact hne ((opField_of_matchesWord hr hboth.1).symm.trans (opField_of_matchesWord hr' hboth.2))

/-- A legal word matches the row of its OP (30_encoding.md R71). -/
theorem and_mask_of_decode {w : Word} {i : Instr} (h : decode w = .ok i) {r : OpRow} (hr : r ∈ opRows)
    (hop : r.op = i.op) : w &&& r.mask = r.pattern := by
  have hrow : ∀ r' ∈ opRows, r'.op = i.op → r = r' := by
    have hinj : ∀ r ∈ opRows, ∀ r' ∈ opRows, r.op = r'.op → r = r' := by decide
    exact fun r' hr' hop' => hinj r hr r' hr' (hop.trans hop'.symm)
  rw [← encode_of_decode h]
  cases i with
  | nop => rw [hrow ⟨0x0#4, 0x00000000#32, 0xFFFFFFFF#32⟩ (by decide) rfl]; rfl
  | rotate => rw [hrow ⟨0x1#4, 0x00000001#32, 0xFFFFFFFF#32⟩ (by decide) rfl]; rfl
  | clear => rw [hrow ⟨0x2#4, 0x00000002#32, 0xFFFFFFFF#32⟩ (by decide) rfl]; rfl
  | getpix x y =>
    rw [hrow ⟨0x3#4, 0x00000003#32, 0x0000FFFF#32⟩ (by decide) rfl]
    exact encode_getpix_row x y
  | setpix x y v =>
    rw [hrow ⟨0x4#4, 0x00000004#32, 0x0000FEFF#32⟩ (by decide) rfl]
    exact encode_setpix_row x y v

namespace Machine

/-! The rejection of an ILLEGAL word (30_encoding.md R73, R74; 60_exceptions.md R116). -/

/-- A taken CMD write is a submission (10_state.md R30). -/
theorem writeReg_cmd {s : State} (hrst : s.rst = false) (w : Word) : s.writeReg .cmd w = s.submit w := by
  simp [State.writeReg, hrst]

/-- Both spellings of a CMD write submit their word (30_encoding.md R79). -/
theorem step_hostCommands {s : State} {w : Word} (hr : s.runs = true) (hw : s.hostCommands w) :
    step s = s.afterOp.submit w := by
  obtain ⟨ht, hrst, hn | ⟨i, hwf, hn, rfl⟩⟩ := hw
  · rw [step_hostOp hr ht hn, State.hostOp, if_pos (by decide)]
    exact writeReg_cmd (s := s.afterOp) hrst w
  · rw [step_hostOp hr ht hn, State.hostOp, if_pos hwf]
    exact writeReg_cmd (s := s.afterOp) hrst (encode i)

theorem reject_eq_recorded (s : State) (r : Reject) : s.reject r = recorded r.code s := by
  obtain ⟨build, dir, irqEn, src, dst, busy, done, inval, errv⟩ := s
  cases errv <;> rfl

theorem decode_error_of_forall_ne {w : Word} (h : ∀ i, decode w ≠ .ok i) : ∃ e, decode w = .error e := by
  cases hd : decode w with
  | error e => exact ⟨e, rfl⟩
  | ok i => exact absurd hd (h i)

/-- An ILLEGAL word is rejected with code 1 and has no other effect. -/
theorem step_of_decode_error {s : State} {w : Word} (hd : ∃ e, decode w = .error e) (hr : s.runs = true)
    (hb : s.busy = false) (hw : s.hostCommands w) : step s = .next (recorded 1#4 s.afterOp) := by
  obtain ⟨e, he⟩ := hd
  rw [step_hostCommands hr hw, State.submit, State.afterOp_busy, hb, he, ← Reject.code, ← reject_eq_recorded]
  rfl

/-- Settles O4: the OP of every command is below 5. -/
theorem reservedOpIsRejected : Obligations.ReservedOpIsRejected := by
  intro w hop
  have hfield : (opField w).toNat = w.toNat % 16 := by
    rw [opField, BitVec.extractLsb'_toNat, Nat.shiftRight_zero]
  have herr : ∃ e, decode w = .error e := by
    refine decode_error_of_forall_ne fun i hi => ?_
    have hlt : i.op.toNat < 5 := by cases i <;> simp [Instr.op]
    rw [← opField_of_decode hi] at hlt
    omega
  exact ⟨herr, fun s => step_of_decode_error herr⟩

/-- Settles O5. -/
theorem mustBeZeroBitIsRejected : Obligations.MustBeZeroBitIsRejected := by
  intro r w hr hop hne
  have herr : ∃ e, decode w = .error e :=
    decode_error_of_forall_ne fun i hi => hne (and_mask_of_decode hi hr (hop.symm.trans (opField_of_decode hi)))
  exact ⟨herr, fun s => step_of_decode_error herr⟩

end Machine
end Sys2Proof

/-! The statements from 30_encoding.md about the host program (R78, R79). -/

namespace Sys2Proof.Machine

/-- Settles O46: the write of CTRL is the register write of O14, and its bit 1 is IRQ_EN as it stands. -/
theorem rotatePseudoCommandsSetDirection : Obligations.RotatePseudoCommandsSetDirection := by
  intro s ccw hr hrst ht hn
  refine ⟨?_, rfl, rfl⟩
  have hdir : (ctrlBits s.irqEn ccw).getLsbD 0 = ccw := by cases s.irqEn <;> cases ccw <;> decide
  have hirq : (ctrlBits s.irqEn ccw).getLsbD 1 = s.irqEn := by cases s.irqEn <;> cases ccw <;> decide
  have hwrite := registerWriteTakesEffect s 0x0C#6 (ctrlBits s.irqEn ccw) hr ⟨ht, hrst, hn⟩ (by decide) (by decide)
  have hctrl (v : Word) :
      registerWritten s.afterOp (0x0C#6).toNat v = { s.afterOp with dir := v.getLsbD 0, irqEn := v.getLsbD 1 } := rfl
  rw [hwrite, hctrl, hdir, hirq]
  rfl

/-- The position of a label is the first place where it stands (30_encoding.md R79, log 16). -/
theorem labelPos_eq_some_iff (s : State) (l k : Nat) :
    s.labelPos l = some k ↔ s.prog[k]? = some (.label l) ∧ ∀ j, j < k → s.prog[j]? ≠ some (.label l) := by
  rw [State.labelPos, List.findIdx?_eq_some_iff_getElem]
  constructor
  · rintro ⟨hk, hlabel, hfirst⟩
    refine ⟨by simpa [List.getElem?_eq_getElem hk] using hlabel, fun j hj => ?_⟩
    simpa [List.getElem?_eq_getElem (hj.trans hk)] using hfirst j hj
  · rintro ⟨hlabel, hfirst⟩
    obtain ⟨hk, hget⟩ := List.getElem?_eq_some_iff.1 hlabel
    refine ⟨hk, by simp [hget], fun j hj => ?_⟩
    simpa [List.getElem?_eq_getElem (hj.trans hk)] using hfirst j hj

/-- WAIT binds what it reads in STATUS, and moves on once BUSY = 0 (30_encoding.md R79, log 24). -/
theorem step_wait {s : State} (hr : s.runs = true) (ht : s.turn = .host) (hn : s.nextOp = some .wait) :
    step s =
      .next ({ s.begin with
        rdata := registerValue s 0x1C, hostPc := if s.busy then s.hostPc else s.hostPc + 1 }.bind waitName
          (registerValue s 0x1C)) := by
  have hread : s.begin.readReg .status = registerValue s 0x1C := status_word s
  rw [step_hostOp hr ht hn, State.hostOp, hread]
  by_cases hb : s.busy = true
  · rw [if_pos (show s.begin.busy = true from hb), if_pos hb]
    rfl
  · rw [if_neg (show ¬s.begin.busy = true from hb), if_neg hb]
    rfl

/-- BNZ goes to its label exactly when a bit of the mask is 1 in the named value (30_encoding.md R79). -/
theorem step_branchNZ {s : State} {name l k : Nat} {mask v : Word} (hr : s.runs = true) (ht : s.turn = .host)
    (hn : s.nextOp = some (.branchNZ name mask l)) (hv : s.nameValue name = some v) (hk : s.labelPos l = some k) :
    step s = .next (if v &&& mask = 0#32 then s.afterOp else { s.begin with hostPc := k }) := by
  have hv' : s.begin.nameValue name = some v := hv
  have hk' : s.begin.labelPos l = some k := hk
  rw [step_hostOp hr ht hn, State.hostOp, hv', hk']
  rfl

/-- Settles O45. -/
theorem hostControlFlow : Obligations.HostControlFlow := by
  refine fun s => ⟨labelPos_eq_some_iff s, fun hr ht => ⟨fun hn => ?_, fun l hn => ?_, ?_⟩⟩
  · exact ⟨_, step_wait hr ht hn, rfl, nameValue_bind_same _ _ _, fun k hk => nameValue_bind_other _ _ hk⟩
  · rw [step_hostOp hr ht hn]
    rfl
  · intro name mask l v k hn hv hk
    rw [step_branchNZ hr ht hn hv hk]
    exact ⟨fun h => by rw [if_neg h], fun h => by rw [if_pos h]⟩

end Sys2Proof.Machine

/-! The statement from 30_encoding.md about the assembler (R77, R78): `spells_iff` ties mnemonics and operands to the
words of the commands, and `lineMnemonic_lineText` and `lineOperands_lineText` say that a line's text is read back. -/

namespace Sys2Proof

/-- The fields of a packed word as numbers (30_encoding.md R77). -/
theorem packFields_toNat {x y : Nat} (hx : x ≤ 255) (hy : y ≤ 255) (v : Bool) (op : BitVec 4) :
    (packFields (BitVec.ofNat 8 y) (BitVec.ofNat 8 x) v op).toNat =
      y <<< 24 ||| x <<< 16 ||| v.toNat <<< 8 ||| op.toNat := by
  have hshift (n k : Nat) (h : n * 2 ^ k < 2 ^ 32) : (n % 2 ^ 32) <<< k % 2 ^ 32 = n <<< k := by
    have hn : n < 2 ^ 32 := (Nat.le_mul_of_pos_right n (Nat.two_pow_pos k)).trans_lt h
    rw [Nat.mod_eq_of_lt hn, Nat.shiftLeft_eq, Nat.mod_eq_of_lt h]
  have hv : v.toNat ≤ 1 := Bool.toNat_le v
  simp only [packFields, BitVec.toNat_or, BitVec.toNat_shiftLeft, BitVec.toNat_setWidth, BitVec.toNat_ofNat,
    BitVec.toNat_ofBool]
  rw [Nat.mod_eq_of_lt (show x < 2 ^ 8 by omega), Nat.mod_eq_of_lt (show y < 2 ^ 8 by omega), hshift y 24 (by omega),
    hshift x 16 (by omega), hshift v.toNat 8 (by omega), Nat.mod_eq_of_lt (show op.toNat < 2 ^ 32 by omega)]

theorem encode_getpix_toNat {x y : Nat} (hx : x ≤ 255) (hy : y ≤ 255) :
    (encode (.getpix x y)).toNat = y <<< 24 ||| x <<< 16 ||| 3 := by
  rw [encode, Instr.yOperand, Instr.xOperand, packFields_toNat hx hy, Instr.vOperand, Instr.op, Bool.toNat_false,
    Nat.zero_shiftLeft, Nat.or_zero, BitVec.toNat_ofNat]

theorem encode_setpix_toNat {x y : Nat} (hx : x ≤ 255) (hy : y ≤ 255) (v : Bool) :
    (encode (.setpix x y v)).toNat = y <<< 24 ||| x <<< 16 ||| v.toNat <<< 8 ||| 4 :=
  packFields_toNat hx hy v 0x4#4

/-- The word of PSET and PCLR (30_encoding.md R78). -/
theorem encode_setpix_toNat_const {x y : Nat} (hx : x ≤ 255) (hy : y ≤ 255) (v : Bool) :
    (encode (.setpix x y v)).toNat = y <<< 24 ||| x <<< 16 ||| if v then 0x104 else 0x004 := by
  rw [encode_setpix_toNat hx hy, Nat.or_assoc _ (_ <<< 8)]
  congr 1
  cases v <;> decide

namespace Machine

/-! Commands (30_encoding.md R77, R78). -/

/-- The operands of a line's command, in the order written, and its word. -/
theorem spells_iff (m : List Char) (ops : List Nat) (n : Nat) :
    Spells m ops n ↔ ∃ i, namedCommand m ops = some i ∧ i.wf = true ∧ n = (encode i).toNat := by
  constructor
  · rintro (_ | _ | _ | ⟨x, y, hx, hy⟩ | ⟨x, y, v, hx, hy, hv⟩ | ⟨x, y, hx, hy⟩ | ⟨x, y, hx, hy⟩)
    · exact ⟨.nop, rfl, rfl, rfl⟩
    · exact ⟨.rotate, rfl, rfl, rfl⟩
    · exact ⟨.clear, rfl, rfl, rfl⟩
    · exact ⟨.getpix x y, rfl, by simp [Instr.wf]; omega, (encode_getpix_toNat hx hy).symm⟩
    · interval_cases v
      · exact ⟨.setpix x y false, rfl, by simp [Instr.wf]; omega, (encode_setpix_toNat hx hy false).symm⟩
      · exact ⟨.setpix x y true, rfl, by simp [Instr.wf]; omega, (encode_setpix_toNat hx hy true).symm⟩
    · exact ⟨.setpix x y true, rfl, by simp [Instr.wf]; omega, (encode_setpix_toNat_const hx hy true).symm⟩
    · exact ⟨.setpix x y false, rfl, by simp [Instr.wf]; omega, (encode_setpix_toNat_const hx hy false).symm⟩
  · rintro ⟨i, hi, hwf, rfl⟩
    unfold namedCommand at hi
    split_ifs at hi with hm hm hm hm hm hm hm <;> subst hm <;> split at hi <;> cases hi
    · exact .nop
    · exact .rotate
    · exact .clear
    all_goals
      simp only [Instr.wf, Bool.and_eq_true, decide_eq_true_eq] at hwf
      obtain ⟨hx, hy⟩ := hwf
      have hx := Nat.le_of_lt_succ hx
      have hy := Nat.le_of_lt_succ hy
    · exact encode_getpix_toNat hx hy ▸ .getpix _ _ hx hy
    · exact encode_setpix_toNat hx hy false ▸ .setpix _ _ 0 hx hy (by decide)
    · exact encode_setpix_toNat hx hy true ▸ .setpix _ _ 1 hx hy (by decide)
    · exact encode_setpix_toNat_const hx hy true ▸ .pset _ _ hx hy
    · exact encode_setpix_toNat_const hx hy false ▸ .pclr _ _ hx hy

theorem assembleCommand_eq_some_iff (line : List Char) (i : Instr) :
    assembleCommand line = some i ↔
      ∃ ops, lineOperands line = some ops ∧ namedCommand (lineMnemonic line) ops = some i ∧ i.wf = true := by
  unfold assembleCommand
  cases hops : lineOperands line with
  | none => simp
  | some ops =>
    cases hi : namedCommand (lineMnemonic line) ops with
    | none => simp [hi]
    | some j =>
      simp only [Option.ite_none_right_eq_some, Option.some.injEq, exists_eq_left', hi]
      constructor
      · rintro ⟨hj, rfl⟩
        exact ⟨rfl, hj⟩
      · rintro ⟨rfl, hj⟩
        exact ⟨hj, rfl⟩

theorem assembleLine_of_spells {line : List Char} {ops : List Nat} {n : Nat} (hops : lineOperands line = some ops)
    (h : Spells (lineMnemonic line) ops n) : assembleLine line = some (BitVec.ofNat 32 n) := by
  obtain ⟨i, hi, hwf, rfl⟩ := (spells_iff _ _ _).1 h
  rw [assembleLine, (assembleCommand_eq_some_iff line i).2 ⟨ops, hops, hi, hwf⟩, Option.map_some, BitVec.ofNat_toNat,
    BitVec.setWidth_eq]

/-! Words: mnemonics and integers (30_encoding.md R77, log 23). -/

/-- A character that separates nothing and starts no comment. -/
def isWordChar (c : Char) : Bool := !isBlank c && c != ',' && c != ';'

theorem isBlank_of_isWordChar {c : Char} (h : isWordChar c = true) : isBlank c = false := by
  simp only [isWordChar, Bool.and_eq_true, Bool.not_eq_true'] at h
  exact h.1.1

/-- A text that the assembler takes as one piece. -/
structure IsWord (w : List Char) : Prop where
  ne_nil : w ≠ []
  chars : ∀ c ∈ w, isWordChar c = true

theorem IsWord.not_mem {w : List Char} (h : IsWord w) {c : Char} (hc : isWordChar c = false) : c ∉ w :=
  fun hmem => by simp [h.chars c hmem] at hc

theorem IsWord.head?_append {w : List Char} (h : IsWord w) (rest : List Char) :
    ∀ c ∈ (w ++ rest).head?, isBlank c = false := by
  intro c hc
  rw [List.head?_append_of_ne_nil _ h.ne_nil] at hc
  exact isBlank_of_isWordChar (h.chars c (List.mem_of_head? hc))

theorem IsWord.getLast?_append {w : List Char} (h : IsWord w) (front : List Char) :
    ∀ c ∈ (front ++ w).getLast?, isBlank c = false := by
  intro c hc
  rw [List.getLast?_append_of_ne_nil _ h.ne_nil] at hc
  exact isBlank_of_isWordChar (h.chars c (List.mem_of_getLast? hc))

theorem Spells.mnemonic_isWord {m : List Char} {ops : List Nat} {n : Nat} (h : Spells m ops n) : IsWord m := by
  cases h <;> exact ⟨List.cons_ne_nil _ _, List.all_eq_true.1 rfl⟩

/-! Integers (30_encoding.md R77). -/

theorem mem_toDigits {b n : Nat} (hb : 1 < b) {c : Char} (hc : c ∈ Nat.toDigits b n) :
    ∃ d, d < b ∧ c = d.digitChar := by
  induction n using Nat.strongRecOn with
  | ind n ih =>
    rw [Nat.toDigits_eq_if hb] at hc
    split_ifs at hc with hn
    · exact ⟨n, hn, List.mem_singleton.1 hc⟩
    · rcases List.mem_append.1 hc with hc | hc
      · exact ih (n / b) (Nat.div_lt_self (by omega) hb) hc
      · exact ⟨n % b, Nat.mod_lt _ (by omega), List.mem_singleton.1 hc⟩

theorem digitsFrom_append (hex : Bool) (acc : Nat) (cs ds : List Char) :
    digitsFrom hex acc (cs ++ ds) = (digitsFrom hex acc cs).bind fun a => digitsFrom hex a ds := by
  induction cs generalizing acc with
  | nil => rfl
  | cons c cs ih =>
    simp only [List.cons_append, digitsFrom]
    cases digitValue hex c with
    | none => rfl
    | some d => exact ih _

theorem digitValue_digitChar (hex : Bool) {d : Nat} (h : d < if hex then 16 else 10) :
    digitValue hex d.digitChar = some d := by
  have hdec : ∀ d < 10, digitValue false d.digitChar = some d := by decide
  have hhex : ∀ d < 16, digitValue true d.digitChar = some d := by decide
  cases hex with
  | false => exact hdec d h
  | true => exact hhex d h

/-- Reading the digits of a number gives the number. -/
theorem digitsFrom_toDigits (hex : Bool) {b : Nat} (hb : b = if hex then 16 else 10) (n : Nat) :
    digitsFrom hex 0 (Nat.toDigits b n) = some n := by
  have hb1 : 1 < b := by cases hex <;> simp [hb]
  have hone (acc d : Nat) (hd : d < b) : digitsFrom hex acc [d.digitChar] = some (acc * b + d) := by
    simp only [digitsFrom, digitValue_digitChar hex (hb ▸ hd), hb]
  induction n using Nat.strongRecOn with
  | ind n ih =>
    rw [Nat.toDigits_eq_if hb1]
    split_ifs with hn
    · rw [hone 0 n hn, Nat.zero_mul, Nat.zero_add]
    · rw [digitsFrom_append, ih _ (Nat.div_lt_self (by omega) hb1), Option.bind_some,
        hone _ _ (Nat.mod_lt _ (by omega)), Nat.div_add_mod']

theorem operandValue_of_decimal {t : List Char} (ht : t ≠ []) (hx : 'x' ∉ t) :
    operandValue t = digitsFrom false 0 t := by
  unfold operandValue
  split
  · exact absurd rfl ht
  · simp at hx
  · simp at hx
  · rfl

theorem operandValue_of_hex {ds : List Char} (hds : ds ≠ []) :
    operandValue ('0' :: 'x' :: ds) = digitsFrom true 0 ds := by
  cases ds with
  | nil => exact absurd rfl hds
  | cons d ds => rfl

theorem SpellsNumber.isWord {n : Nat} {t : List Char} (h : SpellsNumber n t) : IsWord t := by
  have hdigit : ∀ d < 16, isWordChar d.digitChar = true := by decide
  rcases h with rfl | rfl
  · refine ⟨Nat.toDigits_ne_nil, fun c hc => ?_⟩
    obtain ⟨d, hd, rfl⟩ := mem_toDigits (by decide) hc
    exact hdigit d (by omega)
  · refine ⟨List.cons_ne_nil _ _, ?_⟩
    rintro c (_ | ⟨_, _ | ⟨_, hc⟩⟩)
    · decide
    · decide
    · obtain ⟨d, hd, rfl⟩ := mem_toDigits (by decide) hc
      exact hdigit d hd

theorem SpellsNumber.operandValue_eq {n : Nat} {t : List Char} (h : SpellsNumber n t) : operandValue t = some n := by
  rcases h with rfl | rfl
  · have hx : 'x' ∉ Nat.toDigits 10 n := fun hc =>
      absurd (Nat.isDigit_of_mem_toDigits (by decide) (by decide) hc) (by decide)
    rw [operandValue_of_decimal Nat.toDigits_ne_nil hx]
    exact digitsFrom_toDigits false rfl n
  · rw [operandValue_of_hex Nat.toDigits_ne_nil]
    exact digitsFrom_toDigits true rfl n

/-! Blanks, commas and comments (30_encoding.md R77, log 23). -/

theorem dropWhile_isBlank_eq_self {cs : List Char} (h : ∀ c ∈ cs.head?, isBlank c = false) :
    cs.dropWhile isBlank = cs := by
  cases cs with
  | nil => rfl
  | cons c cs => exact List.dropWhile_cons_of_neg (by simp [h c rfl])

theorem trimBlanks_eq_self {cs : List Char} (hfirst : ∀ c ∈ cs.head?, isBlank c = false)
    (hlast : ∀ c ∈ cs.getLast?, isBlank c = false) : trimBlanks cs = cs := by
  rw [trimBlanks, dropWhile_isBlank_eq_self hfirst, dropWhile_isBlank_eq_self (by rwa [List.head?_reverse]),
    List.reverse_reverse]

theorem trimBlanks_cons_blank (cs : List Char) : trimBlanks (' ' :: cs) = trimBlanks cs := rfl

theorem trimBlanks_word {w : List Char} (h : IsWord w) : trimBlanks w = w := by
  refine trimBlanks_eq_self ?_ (h.getLast?_append [])
  rw [← List.append_nil w]
  exact h.head?_append []

theorem trimBlanks_ne_nil {cs : List Char} {c : Char} (hc : c ∈ cs) (hb : isBlank c = false) :
    trimBlanks cs ≠ [] := by
  intro h
  have hdrop : ∀ d ∈ (cs.dropWhile isBlank).reverse, isBlank d = true :=
    List.dropWhile_eq_nil_iff.1 (List.reverse_eq_nil_iff.1 h)
  rw [← List.takeWhile_append_dropWhile (p := isBlank) (l := cs)] at hc
  rcases List.mem_append.1 hc with hc | hc
  · simp [List.mem_takeWhile_imp hc] at hb
  · simp [hdrop c (List.mem_reverse.2 hc)] at hb

theorem commaPieces_ne_nil (cs : List Char) : commaPieces cs ≠ [] := by
  cases cs with
  | nil => simp [commaPieces]
  | cons c cs =>
    simp only [commaPieces]
    split
    · simp
    · split <;> simp

theorem commaPieces_comma (cs : List Char) : commaPieces (',' :: cs) = [] :: commaPieces cs := by
  simp only [commaPieces]
  split
  · rename_i h
    exact absurd h (commaPieces_ne_nil cs)
  · rename_i p ps h
    rw [h]
    rfl

theorem commaPieces_cons {c : Char} (hc : c ≠ ',') {cs p : List Char} {ps : List (List Char)}
    (h : commaPieces cs = p :: ps) : commaPieces (c :: cs) = (c :: p) :: ps := by
  simp only [commaPieces, h]
  simp [hc]

theorem commaPieces_no_comma {cs : List Char} (h : ',' ∉ cs) : commaPieces cs = [cs] := by
  induction cs with
  | nil => rfl
  | cons c cs ih =>
    rw [List.mem_cons, not_or] at h
    exact commaPieces_cons (Ne.symm h.1) (ih h.2)

/-- The text before the first comma is the first piece. -/
theorem commaPieces_append_comma {cs : List Char} (h : ',' ∉ cs) (rest : List Char) :
    commaPieces (cs ++ ',' :: rest) = cs :: commaPieces rest := by
  induction cs with
  | nil => exact commaPieces_comma rest
  | cons c cs ih =>
    rw [List.mem_cons, not_or] at h
    exact commaPieces_cons (Ne.symm h.1) (ih h.2)

theorem lineCode_append_comment (line comment : List Char) : lineCode (line ++ ';' :: comment) = lineCode line := by
  unfold lineCode
  congr 1
  induction line with
  | nil => rfl
  | cons c cs ih => simp only [List.cons_append, List.takeWhile_cons, ih]

theorem assembleLine_congr {line line' : List Char} (h : lineCode line = lineCode line') :
    assembleLine line = assembleLine line' := by
  simp only [assembleLine, assembleCommand, lineOperands, lineMnemonic, h]

/-! The text of a line, read back (30_encoding.md R77). -/

theorem isWord_of_mem_texts {ops : List Nat} {texts : List (List Char)} (h : List.Forall₂ SpellsNumber ops texts) :
    ∀ t ∈ texts, IsWord t := by
  induction h with
  | nil => simp
  | cons hn _ ih => exact List.forall_mem_cons.2 ⟨hn.isWord, ih⟩

theorem mapM_operandValue {ops : List Nat} {texts : List (List Char)} (h : List.Forall₂ SpellsNumber ops texts) :
    (texts.map (' ' :: ·)).mapM (fun p => operandValue (trimBlanks p)) = some ops := by
  induction h with
  | nil => rfl
  | cons hn _ ih =>
    rw [List.map_cons, List.mapM_cons, trimBlanks_cons_blank, trimBlanks_word hn.isWord, hn.operandValue_eq, ih]
    rfl

theorem comma_not_mem_blank_cons {t : List Char} (h : IsWord t) : ',' ∉ ' ' :: t := by
  rw [List.mem_cons, not_or]
  exact ⟨by decide, h.not_mem (by decide)⟩

theorem commaPieces_operandText (t : List Char) (ts : List (List Char)) (hwords : ∀ u ∈ t :: ts, IsWord u) :
    commaPieces (' ' :: operandText (t :: ts)) = (t :: ts).map (' ' :: ·) := by
  induction ts generalizing t with
  | nil => exact commaPieces_no_comma (comma_not_mem_blank_cons (hwords t List.mem_cons_self))
  | cons t' ts ih =>
    rw [List.map_cons, ← ih t' fun u hu => hwords u (List.mem_cons_of_mem t hu)]
    exact commaPieces_append_comma (comma_not_mem_blank_cons (hwords t List.mem_cons_self)) _

/-- The text of operands ends with one of them. -/
theorem operandText_suffix (t : List Char) (ts : List (List Char)) : ∃ u ∈ t :: ts, u <:+ operandText (t :: ts) := by
  induction ts generalizing t with
  | nil => exact ⟨t, List.mem_cons_self, List.suffix_rfl⟩
  | cons t' ts ih =>
    obtain ⟨u, hu, hsuffix⟩ := ih t'
    exact ⟨u, List.mem_cons_of_mem t hu, hsuffix.trans ⟨t ++ [',', ' '], by simp [operandText]⟩⟩

theorem semicolon_not_mem_operandText (texts : List (List Char)) (hwords : ∀ u ∈ texts, IsWord u) :
    ';' ∉ operandText texts := by
  induction texts with
  | nil => simp [operandText]
  | cons t ts ih =>
    obtain ⟨ht, hts⟩ := List.forall_mem_cons.1 hwords
    have hmem : ';' ∉ t := ht.not_mem (by decide)
    cases ts with
    | nil => exact hmem
    | cons t' ts => simp [operandText, hmem, ih hts]

/-- What follows the mnemonic in a line's code: the blank before the operands is trimmed off where there are none. -/
def operandTail : List (List Char) → List Char
  | [] => []
  | t :: ts => ' ' :: operandText (t :: ts)

theorem head?_operandTail (texts : List (List Char)) : ∀ c ∈ (operandTail texts).head?, isBlank c = true := by
  cases texts with
  | nil => simp [operandTail]
  | cons t ts =>
    rintro c ⟨⟩
    rfl

theorem trimBlanks_lineText {m : List Char} (hm : IsWord m) (texts : List (List Char))
    (hwords : ∀ u ∈ texts, IsWord u) :
    trimBlanks (lineText m texts) = m ++ operandTail texts := by
  cases texts with
  | nil =>
    have hreverse : (m ++ [' ']).reverse.dropWhile isBlank = m.reverse := by
      rw [List.reverse_concat, List.dropWhile_cons_of_pos rfl]
      refine dropWhile_isBlank_eq_self ?_
      rw [List.head?_reverse]
      exact hm.getLast?_append []
    rw [lineText, operandText, operandTail, List.append_nil, trimBlanks,
      dropWhile_isBlank_eq_self (hm.head?_append _), hreverse, List.reverse_reverse]
  | cons t ts =>
    obtain ⟨u, hu, front, hfront⟩ := operandText_suffix t ts
    refine trimBlanks_eq_self (hm.head?_append _) ?_
    rw [lineText, ← hfront, ← List.cons_append, ← List.append_assoc]
    exact (hwords u hu).getLast?_append _

theorem lineCode_lineText {m : List Char} (hm : IsWord m) (texts : List (List Char))
    (hwords : ∀ u ∈ texts, IsWord u) :
    lineCode (lineText m texts) = m ++ operandTail texts := by
  have hnone : ';' ∉ lineText m texts := by
    simp [lineText, hm.not_mem (c := ';') (by decide), semicolon_not_mem_operandText texts hwords]
  rw [lineCode, List.takeWhile_eq_self_iff.2, trimBlanks_lineText hm texts hwords]
  exact fun c hc => bne_iff_ne.2 fun h => hnone (h ▸ hc)

/-- The mnemonic ends where a blank follows. -/
theorem split_at_blank {m rest : List Char} (hm : IsWord m) (hrest : ∀ c ∈ rest.head?, isBlank c = true) :
    (m ++ rest).takeWhile (fun c => !isBlank c) = m ∧ (m ++ rest).dropWhile (fun c => !isBlank c) = rest := by
  have hnb : ∀ c ∈ m, (!isBlank c) = true := fun c hc => by rw [isBlank_of_isWordChar (hm.chars c hc), Bool.not_false]
  rw [List.takeWhile_append_of_pos hnb, List.dropWhile_append_of_pos hnb]
  cases rest with
  | nil => exact ⟨List.append_nil m, rfl⟩
  | cons c cs => simp [hrest c rfl]

theorem lineMnemonic_lineText {m : List Char} (hm : IsWord m) (texts : List (List Char))
    (hwords : ∀ u ∈ texts, IsWord u) : lineMnemonic (lineText m texts) = m := by
  rw [lineMnemonic, lineCode_lineText hm texts hwords]
  exact (split_at_blank hm (head?_operandTail texts)).1

theorem operandList_operandTail {ops : List Nat} {texts : List (List Char)}
    (h : List.Forall₂ SpellsNumber ops texts) : operandList (operandTail texts) = some ops := by
  have hwords := isWord_of_mem_texts h
  cases texts with
  | nil =>
    cases h
    rfl
  | cons t ts =>
    have htrim : trimBlanks (operandTail (t :: ts)) ≠ [] := by
      obtain ⟨u, hu, hsuffix⟩ := operandText_suffix t ts
      obtain ⟨c, hc⟩ := List.exists_mem_of_ne_nil u (hwords u hu).ne_nil
      exact trimBlanks_ne_nil (List.mem_cons_of_mem ' ' (hsuffix.subset hc))
        (isBlank_of_isWordChar ((hwords u hu).chars c hc))
    rw [operandList, if_neg (by simpa using htrim), operandTail, commaPieces_operandText t ts hwords]
    exact mapM_operandValue h

theorem lineOperands_lineText {m : List Char} (hm : IsWord m) {ops : List Nat} {texts : List (List Char)}
    (h : List.Forall₂ SpellsNumber ops texts) : lineOperands (lineText m texts) = some ops := by
  rw [lineOperands, lineCode_lineText hm texts (isWord_of_mem_texts h),
    (split_at_blank hm (head?_operandTail texts)).2, operandList_operandTail h]

/-- Settles O7. The text of a line is read back as its mnemonic and operands, and `spells_iff` gives their word. -/
theorem assembledLineDecodes : Obligations.AssembledLineDecodes := by
  refine ⟨fun line w hw => ?_, fun line ops n => assembleLine_of_spells, fun m ops n texts hs htexts => ?_⟩
  · obtain ⟨i, hi, rfl⟩ := Option.map_eq_some_iff.1 hw
    obtain ⟨ops, hops, hname, hwf⟩ := (assembleCommand_eq_some_iff line i).1 hi
    exact ⟨⟨i, hi, hwf, rfl, decodeInvertsEncode i hwf⟩, ops, hops, (spells_iff _ _ _).2 ⟨i, hname, hwf, rfl⟩⟩
  · have hmnemonic := lineMnemonic_lineText hs.mnemonic_isWord texts (isWord_of_mem_texts htexts)
    have hops := lineOperands_lineText hs.mnemonic_isWord htexts
    have hline : assembleLine (lineText m texts) = some (BitVec.ofNat 32 n) :=
      assembleLine_of_spells hops (by rwa [hmnemonic])
    refine ⟨hmnemonic, hops, hline, fun comment => ?_⟩
    rw [assembleLine_congr (lineCode_append_comment _ comment), hline]

end Machine
end Sys2Proof

/-! The statements from 40_pixel_access.md: the bit extractor and the bit writer, and the perform steps of GETPIX and
SETPIX that no hazard has struck. `putBit_getLsbD` says once what the writer does to each bit. -/

namespace Sys2Proof.Machine

/-! The two units (R81, R82). -/

/-- The mask of a column has the one bit that holds the column's pixel (00_scope.md R17). -/
theorem bitMask_getLsbD (x j : Nat) : (bitMask x).getLsbD j = decide (j = 7 - x % 8) := by
  have hpos : bitPos x < 8 := by unfold bitPos; omega
  rw [bitMask, ← BitVec.twoPow_eq, BitVec.getLsbD_twoPow, decide_eq_true hpos, Bool.true_and, bitPos]
  exact decide_eq_decide.2 eq_comm

theorem extractBit_eq_getLsbD (b : Byte) (x : Nat) : extractBit b x = b.getLsbD (7 - x % 8) := by
  rw [extractBit, BitVec.and_one_eq_setWidth_ofBool_getLsbD, BitVec.getLsbD_ushiftRight, Nat.add_zero, bitPos]
  cases b.getLsbD (7 - x % 8) <;> rfl

theorem putBit_getLsbD (b : Byte) (x : Nat) (v : Bool) {j : Nat} (hj : j < 8) :
    (putBit b x v).getLsbD j = if j = 7 - x % 8 then v else b.getLsbD j := by
  have hones : (0xFF#8).getLsbD j = true := by
    rw [show 0xFF#8 = BitVec.allOnes 8 from rfl, BitVec.getLsbD_allOnes, decide_eq_true hj]
  cases v with
  | true =>
    rw [putBit, if_pos rfl, BitVec.getLsbD_or, bitMask_getLsbD]
    split <;> simp [*]
  | false =>
    rw [putBit, if_neg Bool.false_ne_true, BitVec.getLsbD_and, BitVec.getLsbD_xor, hones, bitMask_getLsbD]
    split <;> simp [*]

/-- Settles O9. -/
theorem bitUnitsActOnOneBit : Obligations.BitUnitsActOnOneBit :=
  fun b x => ⟨extractBit_eq_getLsbD b x, fun v _ => putBit_getLsbD b x v⟩

/-! The laws of the two units (R84). -/

theorem extractBit_putBit_same (b : Byte) (x : Nat) (v : Bool) : extractBit (putBit b x v) x = v := by
  rw [extractBit_eq_getLsbD, putBit_getLsbD b x v (by omega), if_pos rfl]

/-- Another pixel of the same byte lies in another bit. -/
theorem extractBit_putBit_other (b : Byte) {x x' : Nat} (v : Bool) (hbyte : x' / 8 = x / 8) (hne : x' ≠ x) :
    extractBit (putBit b x v) x' = extractBit b x' := by
  have hbit : ¬7 - x' % 8 = 7 - x % 8 := by omega
  rw [extractBit_eq_getLsbD, extractBit_eq_getLsbD, putBit_getLsbD b x v (by omega), if_neg hbit]

/-- Writing the value that a pixel already has changes nothing. -/
theorem putBit_of_extractBit_eq {b : Byte} {x : Nat} {v : Bool} (h : extractBit b x = v) : putBit b x v = b := by
  refine BitVec.eq_of_getLsbD_eq fun j hj => ?_
  rw [putBit_getLsbD b x v hj]
  split
  · rename_i hbit
    rw [hbit, ← extractBit_eq_getLsbD, h]
  · rfl

/-- Settles O10. The third and the fourth law write a value that the pixel already has. -/
theorem bitUnitLaws : Obligations.BitUnitLaws :=
  fun b x v => ⟨extractBit_putBit_same b x v, fun _ => extractBit_putBit_other b v,
    putBit_of_extractBit_eq (extractBit_putBit_same b x v), putBit_of_extractBit_eq rfl⟩

/-! The perform step of a command in flight that no hazard has struck. -/

theorem quiet_iff (s : State) : s.quiet = true ↔ s.busy = true ∧ s.raced = false := by
  simp [State.quiet]

/-- Completion clears the mark of a hazard, which a command that was not struck does not have (60_exceptions.md
R120). -/
theorem complete_of_not_raced {s : State} (h : s.raced = false) : s.complete = { s with busy := false, done := true } :=
  congrArg (fun r => { s with busy := false, done := true, raced := r }) h.symm

theorem effectOf_raced (i : Instr) (s : State) : (effectOf i s).raced = s.raced := by
  rw [effectOf_shape]

/-- A command in flight within its limits performs its effect and completes (60_exceptions.md R116, R120). -/
theorem exec_of_quiet {s : State} {i : Instr} (hq : s.quiet = true) (hrange : ¬outOfRange s.build.n i)
    (hbounds : buffersInBounds s.build s.lcmd.sb s.lcmd.db i) :
    exec i s = .next { effectOf i s with busy := false, done := true } := by
  obtain ⟨hb, hraced⟩ := (quiet_iff s).1 hq
  rw [exec_busy i s hb, (rangeOk_iff _ _).2 hrange, (boundsOk_iff _ _ _ _).2 hbounds, Bool.and_true, if_pos rfl,
    complete_of_not_raced ((effectOf_raced i s).trans hraced)]

/-- A command in flight that answers a next state has performed its effect. -/
theorem exec_next_of_busy {s t : State} {i : Instr} (hb : s.busy = true) (h : exec i s = .next t) :
    t = (effectOf i s).complete := by
  rcases exec_next h with ⟨-, -, -, rfl⟩ | ⟨hidle, -⟩ | ⟨hidle, -⟩ | ⟨hidle, -⟩
  · rfl
  all_goals simp [hb] at hidle

/-! GETPIX and SETPIX (R86, R88). -/

theorem readPixel_of_not_raced {s : State} (h : s.raced = false) (x y : Nat) :
    s.readPixel x y =
      { s with pixel := extractBit (s.mem.read (byteAddr s.build s.lcmd.sb.toNat x y)) x } := by
  simp [State.readPixel, h]

theorem writePixel_of_not_raced {s : State} (h : s.raced = false) (x y : Nat) (v : Bool) :
    s.writePixel x y v =
      { s with
        mem := s.mem.write (byteAddr s.build s.lcmd.db.toNat x y)
          (putBit (s.mem.read (byteAddr s.build s.lcmd.db.toNat x y)) x v) } := by
  simp [State.writePixel, h]

/-- A read-modify-write of one pixel of one byte, bit by bit. -/
theorem read_write_putBit_getLsbD (m : Memory) (a c x : Nat) (v : Bool) {j : Nat} (hj : j < 8) :
    ((m.write a (putBit (m.read a) x v)).read c).getLsbD j =
      if c = a ∧ j = 7 - x % 8 then v else (m.read c).getLsbD j := by
  rw [Memory.read_write]
  by_cases hc : c = a
  · subst hc
    simp only [if_true, true_and, putBit_getLsbD _ x v hj]
  · simp only [hc, if_false, false_and]

/-- Settles O25. -/
theorem getpixReadsThePixel : Obligations.GetpixReadsThePixel := by
  intro s x y hq hx hy hregion
  obtain ⟨-, hraced⟩ := (quiet_iff s).1 hq
  have hrange : ¬outOfRange s.build.n (.getpix x y) := by unfold outOfRange; omega
  rw [exec_of_quiet hq hrange hregion, effectOf, readPixel_of_not_raced hraced, extractBit_eq_getLsbD, byteAddr]

/-- Settles O26. -/
theorem setpixWritesThePixel : Obligations.SetpixWritesThePixel := by
  intro s x y v hq hx hy hregion
  obtain ⟨-, hraced⟩ := (quiet_iff s).1 hq
  have hrange : ¬outOfRange s.build.n (.setpix x y v) := by unfold outOfRange; omega
  refine ⟨_, exec_of_quiet hq hrange hregion, ?_⟩
  rw [effectOf, writePixel_of_not_raced hraced]
  exact ⟨rfl, fun a _ => read_write_putBit_getLsbD s.mem _ a x v⟩

/-- A completed GETPIX leaves in RESULT what the extractor reads. -/
theorem exec_getpix_pixel {s t : State} {x y : Nat} (hq : s.quiet = true) (h : exec (.getpix x y) s = .next t) :
    t.pixel = extractBit (s.mem.read (byteAddr s.build s.lcmd.sb.toNat x y)) x := by
  obtain ⟨hb, hraced⟩ := (quiet_iff s).1 hq
  rw [exec_next_of_busy hb h, effectOf, readPixel_of_not_raced hraced, State.complete_pixel]

/-- A completed SETPIX leaves in the byte of its pixel what the writer makes of it. -/
theorem exec_setpix_read {s t : State} {x y : Nat} {v : Bool} (hq : s.quiet = true)
    (h : exec (.setpix x y v) s = .next t) :
    t.mem.read (byteAddr s.build s.lcmd.db.toNat x y) =
      putBit (s.mem.read (byteAddr s.build s.lcmd.db.toNat x y)) x v := by
  obtain ⟨hb, hraced⟩ := (quiet_iff s).1 hq
  rw [exec_next_of_busy hb h, effectOf, writePixel_of_not_raced hraced, State.complete_mem, Memory.read_write_same]

/-- Settles O28: the first law of R84, through the two perform steps. -/
theorem getpixAfterSetpixRoundTrip : Obligations.GetpixAfterSetpixRoundTrip := by
  intro s t s' t' x y v hq hset hq' hbuild hbase hkept hget
  calc t'.pixel
      = extractBit (s'.mem.read (byteAddr s'.build s'.lcmd.sb.toNat x y)) x := exec_getpix_pixel hq' hget
    _ = extractBit (s'.mem.read (byteAddr s.build s.lcmd.db.toNat x y)) x := by rw [hbuild, hbase]
    _ = extractBit (t.mem.read (byteAddr s.build s.lcmd.db.toNat x y)) x := congrArg (extractBit · x) hkept
    _ = extractBit (putBit (s.mem.read (byteAddr s.build s.lcmd.db.toNat x y)) x v) x := by
      rw [exec_setpix_read hq hset]
    _ = v := extractBit_putBit_same _ x v

end Sys2Proof.Machine

/-! The statements from 41_rotate.md: the rotation map on the points of the canvas, the points that the bits of a
buffer hold, and what a completed ROTATE leaves. `rotatesTo_bufBit_eq_rotatedBit` is the closed form of R99; the laws of
section 4 follow from `pixAt_turnPoint`, its reading by points, and from the zero padding of the destination. -/

namespace Sys2Proof.Machine

/-! The rotation map on points (R95, R96, R101, R102). -/

/-- A point (x, y) lies on the canvas [0, N) x [0, N) (00_scope.md R16). -/
def OnCanvas (n : Nat) (p : Nat × Nat) : Prop := p.1 < n ∧ p.2 < n

/-- The rotation map `rotMap`, from points to points. -/
def turnPoint (n : Nat) (d : Bool) (p : Nat × Nat) : Nat × Nat := rotMap n d p.1 p.2

theorem turnPoint_clockwise (n x y : Nat) : turnPoint n false (x, y) = (n - 1 - y, x) := rfl

theorem turnPoint_counterclockwise (n x y : Nat) : turnPoint n true (x, y) = (y, n - 1 - x) := rfl

theorem OnCanvas.turnPoint {n : Nat} {p : Nat × Nat} (hp : OnCanvas n p) (d : Bool) : OnCanvas n (turnPoint n d p) :=
  rotMap_in_range n d hp.1 hp.2

/-- Each direction is the other's inverse (R96). -/
theorem turnPoint_not_turnPoint {n : Nat} (d : Bool) {p : Nat × Nat} (hp : OnCanvas n p) :
    turnPoint n (!d) (turnPoint n d p) = p := by
  obtain ⟨x, y⟩ := p
  obtain ⟨hx, hy⟩ : x < n ∧ y < n := hp
  cases d with
  | false =>
    rw [turnPoint_clockwise, Bool.not_false, turnPoint_counterclockwise, Nat.sub_sub_self (by omega)]
  | true =>
    rw [turnPoint_counterclockwise, Bool.not_true, turnPoint_clockwise, Nat.sub_sub_self (by omega)]

theorem turnPoint_turnPoint_not {n : Nat} (d : Bool) {p : Nat × Nat} (hp : OnCanvas n p) :
    turnPoint n d (turnPoint n (!d) p) = p := by
  simpa only [Bool.not_not] using turnPoint_not_turnPoint (!d) hp

theorem turnPoint_eq_iff {n : Nat} {d : Bool} {p q : Nat × Nat} (hp : OnCanvas n p) (hq : OnCanvas n q) :
    turnPoint n d p = q ↔ p = turnPoint n (!d) q := by
  constructor
  · rintro rfl
    exact (turnPoint_not_turnPoint d hp).symm
  · rintro rfl
    exact turnPoint_turnPoint_not d hq

/-- Two turns in one direction are the half turn, whichever the direction. -/
theorem turnPoint_twice (n : Nat) (d : Bool) (p : Nat × Nat) :
    turnPoint n d (turnPoint n d p) = (n - 1 - p.1, n - 1 - p.2) := by
  cases d <;> rfl

theorem turnPoint_four_times {n : Nat} (d : Bool) {p : Nat × Nat} (hp : OnCanvas n p) :
    turnPoint n d (turnPoint n d (turnPoint n d (turnPoint n d p))) = p := by
  obtain ⟨hx, hy⟩ := hp
  rw [turnPoint_twice n d p, turnPoint_twice, Nat.sub_sub_self (by omega), Nat.sub_sub_self (by omega)]

/-- Settles O11: on the canvas, a map with an inverse is injective and onto. -/
theorem rotationMapsAreInverseBijections : Obligations.RotationMapsAreInverseBijections := by
  refine ⟨fun n x y hx hy => ⟨turnPoint_counterclockwise n x y, fun d => ?_⟩, fun n d => ⟨?_, ?_, ?_⟩⟩
  · exact turnPoint_not_turnPoint (p := (x, y)) d ⟨hx, hy⟩
  · exact fun x y hx hy => rotMap_in_range n d hx hy
  · intro x y x' y' hx hy hx' hy' heq
    have hback : (x, y) = turnPoint n (!d) (turnPoint n d (x', y')) :=
      (turnPoint_eq_iff ⟨hx, hy⟩ (OnCanvas.turnPoint ⟨hx', hy'⟩ d)).1 heq
    rw [turnPoint_not_turnPoint d ⟨hx', hy'⟩] at hback
    exact Prod.mk.inj hback
  · intro nx ny hnx hny
    have hp : OnCanvas n (nx, ny) := ⟨hnx, hny⟩
    obtain ⟨hx, hy⟩ := hp.turnPoint (!d)
    exact ⟨_, _, hx, hy, turnPoint_turnPoint_not d hp⟩

/-! The bits of a buffer and the points of the canvas (00_scope.md R17, R18). -/

/-- The byte of a buffer and the bit of it that hold the pixel at a point. -/
def bitOfPoint (b : Build) (p : Nat × Nat) : Nat × Nat := (p.2 * b.stride + p.1 / 8, 7 - p.1 % 8)

/-- The point that bit `q.2` of byte `q.1` of a buffer stands for; a padding bit stands for one right of the canvas. -/
def pointOfBit (b : Build) (q : Nat × Nat) : Nat × Nat := (bitColumn b q.1 q.2, q.1 / b.stride)

/-- The pixel at a point of the buffer at `base` (00_scope.md R17). -/
def pixAt (b : Build) (m : Memory) (base : Word) (p : Nat × Nat) : Bool := pix b m base p.1 p.2

theorem pixAt_eq_bufBit (b : Build) (m : Memory) (base : Word) (p : Nat × Nat) :
    pixAt b m base p = bufBit m base (bitOfPoint b p).1 (bitOfPoint b p).2 := by
  rw [pixAt, pix, extractBit_eq_getLsbD, byteAddr, Nat.add_assoc]
  rfl

theorem bitOfPoint_pointOfBit (b : Build) (i : Nat) {j : Nat} (hj : j < 8) :
    bitOfPoint b (pointOfBit b (i, j)) = (i, j) := by
  have hbyte : bitColumn b i j / 8 = i % b.stride := by unfold bitColumn; omega
  have hbit : 7 - bitColumn b i j % 8 = j := by unfold bitColumn; omega
  rw [bitOfPoint, pointOfBit, hbyte, hbit, Nat.div_add_mod']

theorem pointOfBit_bitOfPoint {b : Build} (hv : b.valid = true) {p : Nat × Nat} (hp : OnCanvas b.n p) :
    pointOfBit b (bitOfPoint b p) = p := by
  obtain ⟨-, hrow, hcol⟩ :=
    (byteAddr_bit_iff b 0 (ny := p.2) (hp.1.trans_le (b.n_le_columns hv))).1 ⟨(Nat.add_assoc 0 _ _).symm, rfl⟩
  exact Prod.ext hcol.symm hrow.symm

/-- The bit of a point of the canvas is a bit of the buffer. -/
theorem bitOfPoint_in_buffer {b : Build} (hv : b.valid = true) {p : Nat × Nat} (hp : OnCanvas b.n p) :
    (bitOfPoint b p).1 < b.bufBytes ∧ (bitOfPoint b p).2 < 8 :=
  ⟨pixel_in_buffer b hv hp.1 hp.2, Nat.lt_succ_of_le (Nat.sub_le _ _)⟩

theorem bufBit_eq_pixAt (b : Build) (m : Memory) (base : Word) (i : Nat) {j : Nat} (hj : j < 8) :
    bufBit m base i j = pixAt b m base (pointOfBit b (i, j)) := by
  rw [pixAt_eq_bufBit, bitOfPoint_pointOfBit b i hj]

theorem isPadding_eq_false_iff (b : Build) (i j : Nat) : isPadding b i j = false ↔ bitColumn b i j < b.n := by
  simp [isPadding]

theorem isPadding_bitOfPoint {b : Build} (hv : b.valid = true) {p : Nat × Nat} (hp : OnCanvas b.n p) :
    isPadding b (bitOfPoint b p).1 (bitOfPoint b p).2 = false :=
  (isPadding_eq_false_iff b _ _).2 ((congrArg Prod.fst (pointOfBit_bitOfPoint hv hp)).trans_lt hp.1)

/-- A bit of a buffer that is no padding holds a pixel of the canvas. -/
theorem onCanvas_pointOfBit {b : Build} {i j : Nat} (hi : i < b.bufBytes) (hpad : isPadding b i j = false) :
    OnCanvas b.n (pointOfBit b (i, j)) :=
  ⟨(isPadding_eq_false_iff b i j).1 hpad, Nat.div_lt_of_lt_mul hi⟩

/-- The padding bits of the buffer at `base` are all 0 (00_scope.md R18). -/
def PaddingZero (b : Build) (m : Memory) (base : Word) : Prop :=
  ∀ i j, i < b.bufBytes → j < 8 → isPadding b i j = true → bufBit m base i j = false

theorem read_eq_zero_of_bufBit {m : Memory} {base : Word} {i : Nat} (h : ∀ j, j < 8 → bufBit m base i j = false) :
    m.read (base.toNat + i) = 0x00#8 :=
  BitVec.eq_of_getLsbD_eq fun j hj => (h j hj).trans BitVec.getLsbD_zero.symm

/-- A buffer of zero padding has the bytes of another with the same pixel content exactly when that has zero padding
too. -/
theorem bytes_eq_iff_paddingZero {b : Build} {m m' : Memory} {base base' : Word} (hzero : PaddingZero b m base)
    (hpix : ∀ p, OnCanvas b.n p → pixAt b m base p = pixAt b m' base' p) :
    (∀ i, i < b.bufBytes → m.read (base.toNat + i) = m'.read (base'.toNat + i)) ↔ PaddingZero b m' base' := by
  constructor
  · intro hbytes i j hi hj hpad
    rw [bufBit, ← hbytes i hi]
    exact hzero i j hi hj hpad
  · refine fun hzero' i hi => BitVec.eq_of_getLsbD_eq fun j hj => ?_
    change bufBit m base i j = bufBit m' base' i j
    cases hpad : isPadding b i j with
    | true => rw [hzero i j hi hj hpad, hzero' i j hi hj hpad]
    | false =>
      rw [bufBit_eq_pixAt b m base i hj, bufBit_eq_pixAt b m' base' i hj]
      exact hpix _ (onCanvas_pointOfBit hi hpad)

/-! The perform step of ROTATE as a whole (R91, R92, R98). -/

/-- What a rotation that no hazard has struck changes: memory (`rotateBuffer_mem` gives it), SCR, INVAL, inval_o. -/
theorem rotateBuffer_of_not_raced {s : State} (h : s.raced = false) :
    s.rotateBuffer =
      { s with
        mem := s.rotateBuffer.mem
        scr := s.mem.snapshot s.lcmd.sb.toNat s.build.bufBytes s.scr
        inval := true
        invalO := true } := by
  simp [State.rotateBuffer, h, State.invalidate]

theorem exists_rotatesTo {s : State} (h : s.rotateReady = true) : ∃ t, rotatesTo s t := by
  obtain ⟨-, hbusy, -, hsb, hdb⟩ := (rotateReady_iff s).1 h
  refine ⟨s.rotateBuffer.complete, h, ?_⟩
  rw [exec_busy .rotate s hbusy, rangeOk, boundsOk, hsb, hdb]
  rfl

theorem rotatesTo_valid {s t : State} (h : rotatesTo s t) : s.build.valid = true :=
  ((rotateReady_iff s).1 h.1).1

theorem rotatesTo_not_raced {s t : State} (h : rotatesTo s t) : s.raced = false := by
  obtain ⟨-, -, hraced, -, -⟩ := (rotateReady_iff s).1 h.1
  exact hraced

/-- A completed ROTATE changes memory, SCR, BUSY, DONE, INVAL and inval_o alone. -/
theorem rotatesTo_frame {s t : State} (h : rotatesTo s t) :
    t = { s with mem := t.mem, scr := t.scr, busy := false, done := true, inval := true, invalO := true } := by
  have hraced := rotatesTo_not_raced h
  have hkept : s.rotateBuffer.raced = false := (effectOf_raced .rotate s).trans hraced
  rw [rotatesTo_eq h, complete_of_not_raced hkept, rotateBuffer_of_not_raced hraced]

theorem rotatesTo_build {s t : State} (h : rotatesTo s t) : t.build = s.build := by
  rw [rotatesTo_frame h]

theorem rotatesTo_lcmd {s t : State} (h : rotatesTo s t) : t.lcmd = s.lcmd := by
  rw [rotatesTo_frame h]

/-- SCR holds the source as the perform step found it (R92). -/
theorem rotatesTo_readScr {s t : State} (h : rotatesTo s t) {i : Nat} (hi : i < s.build.bufBytes) :
    t.scr.readScr i = s.mem.read (s.lcmd.sb.toNat + i) := by
  rw [rotatesTo_eq h, State.complete_scr, rotateBuffer_of_not_raced (rotatesTo_not_raced h),
    Memory.readScr_snapshot, if_pos hi]

/-- Stages 2 to 4 write inside the destination alone (R97). -/
theorem stampImage_read_outside {b : Build} (hv : b.valid = true) (scr : Memory) (d : Bool) (db : Nat) (m : Memory)
    {a : Nat} (ha : ¬(db ≤ a ∧ a < db + b.bufBytes)) : (stampImage b scr d db m).read a = m.read a := by
  refine BitVec.eq_of_getLsbD_eq fun j hj => Bool.eq_iff_iff.2 ?_
  rw [stampImage_bit b scr d db m a j hj]
  refine or_iff_left ?_
  rintro ⟨y, hy, x, hx, -, hbyte, -⟩
  obtain ⟨hnx, hny⟩ := rotMap_in_range b.n d hx hy
  have := pixel_in_buffer b hv hnx hny
  rw [byteAddr] at hbyte
  omega

theorem rotatesTo_read_outside {s t : State} (h : rotatesTo s t) {a : Nat}
    (ha : ¬(s.lcmd.db.toNat ≤ a ∧ a < s.lcmd.db.toNat + s.build.bufBytes)) : t.mem.read a = s.mem.read a := by
  rw [rotatesTo_eq h, State.complete_mem, rotateBuffer_mem s (rotatesTo_not_raced h),
    stampImage_read_outside (rotatesTo_valid h) _ _ _ _ ha, Memory.read_clear, if_neg ha]

/-- Settles O27. -/
theorem rotateCompletesWithItsFrame : Obligations.RotateCompletesWithItsFrame := by
  intro s hready
  obtain ⟨t, h⟩ := exists_rotatesTo hready
  exact ⟨t, h.2, rotatesTo_frame h, fun i => rotatesTo_readScr h, fun a => rotatesTo_read_outside h⟩

/-! The closed form (R99). -/

/-- The closed form by points: the destination's pixel comes from the point that the opposite turn gives. -/
theorem rotatedBit_eq (b : Build) (m : Memory) (sb : Word) (d : Bool) (i j : Nat) :
    rotatedBit b m sb d i j =
      if isPadding b i j = true then false else pixAt b m sb (turnPoint b.n (!d) (pointOfBit b (i, j))) := by
  cases d <;> simp [rotatedBit, isPadding, pixAt, turnPoint, pointOfBit, rotMap]

/-- The one source point that can stamp a bit of the destination is its preimage; a padding bit has none. -/
theorem rotatesTo_bufBit_eq_rotatedBit {s t : State} (h : rotatesTo s t) {i j : Nat} (hi : i < s.build.bufBytes)
    (hj : j < 8) :
    bufBit t.mem s.lcmd.db i j = rotatedBit s.build s.mem s.lcmd.sb s.lcmd.d i j := by
  rw [Bool.eq_iff_iff, rotatesTo_bufBit h hi hj, rotatedBit_eq]
  cases hpad : isPadding s.build i j with
  | true =>
    refine iff_of_false ?_ (by simp)
    rintro ⟨y, hy, x, hx, -, hmap⟩
    have hcol := (rotMap_in_range s.build.n s.lcmd.d hx hy).1
    rw [hmap, ← isPadding_eq_false_iff, hpad] at hcol
    cases hcol
  | false =>
    have hq := onCanvas_pointOfBit hi hpad
    rw [if_neg Bool.false_ne_true]
    constructor
    · rintro ⟨y, hy, x, hx, hpix, hmap⟩
      rwa [← (turnPoint_eq_iff (p := (x, y)) ⟨hx, hy⟩ hq).1 hmap]
    · intro hpix
      obtain ⟨hx, hy⟩ := hq.turnPoint (!s.lcmd.d)
      exact ⟨_, hy, _, hx, hpix, turnPoint_turnPoint_not s.lcmd.d hq⟩

/-- Settles O30. -/
theorem rotateHasTheClosedForm : Obligations.RotateHasTheClosedForm := by
  intro s hready
  obtain ⟨t, h⟩ := exists_rotatesTo hready
  refine ⟨t, h.2, fun i j => rotatesTo_bufBit_eq_rotatedBit h, fun a ha => ?_, fun i => rotatesTo_readScr h⟩
  exact rotatesTo_read_outside h ((Span.has_eq_false_iff _ a).1 ha)

/-! The pixel content (R95, R96) and the padding (R104) of the destination. -/

/-- A completed ROTATE moves the pixel at each point to the image of the point. -/
theorem pixAt_turnPoint {s t : State} (h : rotatesTo s t) {p : Nat × Nat} (hp : OnCanvas s.build.n p) :
    pixAt s.build t.mem s.lcmd.db (turnPoint s.build.n s.lcmd.d p) = pixAt s.build s.mem s.lcmd.sb p := by
  have hv := rotatesTo_valid h
  have hq := hp.turnPoint s.lcmd.d
  obtain ⟨hi, hj⟩ := bitOfPoint_in_buffer hv hq
  rw [pixAt_eq_bufBit, rotatesTo_bufBit_eq_rotatedBit h hi hj, rotatedBit_eq, isPadding_bitOfPoint hv hq,
    if_neg Bool.false_ne_true, Prod.mk.eta, pointOfBit_bitOfPoint hv hq, turnPoint_not_turnPoint s.lcmd.d hp]

theorem rotatesTo_paddingZero {s t : State} (h : rotatesTo s t) : PaddingZero s.build t.mem s.lcmd.db := by
  intro i j hi hj hpad
  rw [rotatesTo_bufBit_eq_rotatedBit h hi hj, rotatedBit_eq, if_pos hpad]

/-- Settles O31. -/
theorem rotateMovesEachPixel : Obligations.RotateMovesEachPixel := by
  intro s t x y h hx hy
  have hmoved := pixAt_turnPoint h (p := (x, y)) ⟨hx, hy⟩
  refine ⟨fun hd => ?_, fun hd => ?_⟩
  · rwa [hd, turnPoint_clockwise] at hmoved
  · rwa [hd, turnPoint_counterclockwise] at hmoved

/-- The columns of a padding byte all lie right of the canvas (00_scope.md R18). -/
theorem isPadding_of_minStride_le {b : Build} {i : Nat} (h : b.minStride ≤ i % b.stride) (j : Nat) :
    isPadding b i j = true := by
  unfold Build.minStride at h
  unfold isPadding bitColumn
  exact decide_eq_true (by omega)

/-- Settles O35. -/
theorem rotateZeroesPadding : Obligations.RotateZeroesPadding := by
  refine fun s t h i hi => ⟨fun j => rotatesTo_paddingZero h i j hi, fun hbyte => ?_⟩
  exact read_eq_zero_of_bufBit fun j hj => rotatesTo_paddingZero h i j hi hj (isPadding_of_minStride_le hbyte j)

/-! Rotations one after another (R102, R107). -/

/-- The source of the next command has the pixels of the destination it takes. -/
theorem pixAt_of_takesDestination {t s : State} (hnext : takesDestination t s) (hv : t.build.valid = true)
    {p : Nat × Nat} (hp : OnCanvas t.build.n p) :
    pixAt t.build s.mem s.lcmd.sb p = pixAt t.build t.mem t.lcmd.db p := by
  rw [pixAt_eq_bufBit, pixAt_eq_bufBit, bufBit, bufBit, hnext.2 _ (bitOfPoint_in_buffer hv hp).1]

/-- The command that takes the destination of a completed ROTATE finds each pixel at the image of its point. -/
theorem next_source {s t s' : State} (h : rotatesTo s t) (hnext : takesDestination t s') {p : Nat × Nat}
    (hp : OnCanvas s.build.n p) :
    pixAt s.build s'.mem s'.lcmd.sb (turnPoint s.build.n s.lcmd.d p) = pixAt s.build s.mem s.lcmd.sb p := by
  have hbuild := rotatesTo_build h
  have hkept := pixAt_of_takesDestination hnext (hbuild ▸ rotatesTo_valid h) (hbuild ▸ hp.turnPoint s.lcmd.d)
  rw [hbuild, rotatesTo_lcmd h] at hkept
  exact hkept.trans (pixAt_turnPoint h hp)

theorem next_build {s t s' : State} (h : rotatesTo s t) (hnext : takesDestination t s') : s'.build = s.build :=
  hnext.1.trans (rotatesTo_build h)

/-- Settles O33. -/
theorem oppositeRotationUndoes : Obligations.OppositeRotationUndoes := by
  intro s₀ t₀ s₁ t₁ h₀ hnext hd h₁ x y hx hy
  have hp : OnCanvas s₀.build.n (x, y) := ⟨hx, hy⟩
  have hb := next_build h₀ hnext
  have hmoved := pixAt_turnPoint h₁ (hb ▸ hp.turnPoint s₀.lcmd.d)
  rw [hb, hd, turnPoint_not_turnPoint _ hp] at hmoved
  exact hmoved.trans (next_source h₀ hnext hp)

/-- Settles O32. -/
theorem fourRotationsRestoreTheImage : Obligations.FourRotationsRestoreTheImage := by
  refine ⟨fun n d x y hx hy => turnPoint_four_times (p := (x, y)) d ⟨hx, hy⟩, ?_⟩
  intro s₀ t₀ s₁ t₁ s₂ t₂ s₃ t₃ h₀ hnext₀ hd₁ h₁ hnext₁ hd₂ h₂ hnext₂ hd₃ h₃
  have hb₁ := next_build h₀ hnext₀
  have hb₂ := (next_build h₁ hnext₁).trans hb₁
  have hb₃ := (next_build h₂ hnext₂).trans hb₂
  have hrestored : ∀ p, OnCanvas s₀.build.n p →
      pixAt s₀.build t₃.mem s₃.lcmd.db p = pixAt s₀.build s₀.mem s₀.lcmd.sb p := by
    intro p₀ hc₀
    have hc₁ := hc₀.turnPoint s₀.lcmd.d
    have hc₂ := hc₁.turnPoint s₀.lcmd.d
    have hc₃ := hc₂.turnPoint s₀.lcmd.d
    have hmove₀ := next_source h₀ hnext₀ hc₀
    have hmove₁ := next_source h₁ hnext₁ (hb₁ ▸ hc₁)
    have hmove₂ := next_source h₂ hnext₂ (hb₂ ▸ hc₂)
    have hmove₃ := pixAt_turnPoint h₃ (hb₃ ▸ hc₃)
    rw [hb₁, hd₁] at hmove₁
    rw [hb₂, hd₂] at hmove₂
    rw [hb₃, hd₃, turnPoint_four_times _ hc₀] at hmove₃
    exact hmove₃.trans (hmove₂.trans (hmove₁.trans hmove₀))
  refine ⟨fun x y hx hy => hrestored (x, y) ⟨hx, hy⟩, ?_⟩
  exact bytes_eq_iff_paddingZero (hb₃ ▸ rotatesTo_paddingZero h₃) hrestored

/-! The number of foreground pixels (R103). -/

theorem mem_foreground_iff (b : Build) (m : Memory) (base : Word) (p : Nat × Nat) :
    p ∈ (Finset.range b.n ×ˢ Finset.range b.n).filter (fun p => pix b m base p.1 p.2 = true) ↔
      OnCanvas b.n p ∧ pixAt b m base p = true := by
  simp only [Finset.mem_filter, Finset.mem_product, Finset.mem_range]
  rfl

theorem mem_ones_iff (b : Build) (m : Memory) (base : Word) (q : Nat × Nat) :
    q ∈ (Finset.range b.bufBytes ×ˢ Finset.range 8).filter (fun q => bufBit m base q.1 q.2 = true) ↔
      (q.1 < b.bufBytes ∧ q.2 < 8) ∧ bufBit m base q.1 q.2 = true := by
  simp only [Finset.mem_filter, Finset.mem_product, Finset.mem_range]

/-- The turn takes the foreground points of the source one to one onto those of the destination (R101). -/
theorem pixelCount_of_rotatesTo {s t : State} (h : rotatesTo s t) :
    pixelCount s.build t.mem s.lcmd.db = pixelCount s.build s.mem s.lcmd.sb := by
  refine (Finset.card_nbij' (turnPoint s.build.n s.lcmd.d) (turnPoint s.build.n (!s.lcmd.d)) ?_ ?_ ?_ ?_).symm
  all_goals intro p hmem
  all_goals obtain ⟨hp, hpix⟩ := (mem_foreground_iff _ _ _ p).1 hmem
  · exact (mem_foreground_iff _ _ _ _).2 ⟨hp.turnPoint _, (pixAt_turnPoint h hp).trans hpix⟩
  · refine (mem_foreground_iff _ _ _ _).2 ⟨hp.turnPoint _, ?_⟩
    rw [← pixAt_turnPoint h (hp.turnPoint _), turnPoint_turnPoint_not _ hp, hpix]
  · exact turnPoint_not_turnPoint _ hp
  · exact turnPoint_turnPoint_not _ hp

/-- Each pixel is a bit of its own. -/
theorem pixelCount_le_bitCount {b : Build} (hv : b.valid = true) (m : Memory) (base : Word) :
    pixelCount b m base ≤ bitCount b m base := by
  refine Finset.card_le_card_of_injOn (bitOfPoint b) (fun p hmem => ?_) fun p hmem p' hmem' heq => ?_
  · obtain ⟨hp, hpix⟩ := (mem_foreground_iff b m base p).1 hmem
    exact (mem_ones_iff b m base _).2 ⟨bitOfPoint_in_buffer hv hp, pixAt_eq_bufBit b m base p ▸ hpix⟩
  · obtain ⟨hp, -⟩ := (mem_foreground_iff b m base p).1 hmem
    obtain ⟨hp', -⟩ := (mem_foreground_iff b m base p').1 hmem'
    rw [← pointOfBit_bitOfPoint hv hp, heq, pointOfBit_bitOfPoint hv hp']

/-- Without padding bits that are 1, every 1 bit is a pixel of its own. -/
theorem bitCount_le_pixelCount {b : Build} {m : Memory} {base : Word} (hzero : PaddingZero b m base) :
    bitCount b m base ≤ pixelCount b m base := by
  refine Finset.card_le_card_of_injOn (pointOfBit b) (fun q hmem => ?_) fun q hmem q' hmem' heq => ?_
  · obtain ⟨⟨hi, hj⟩, hbit⟩ := (mem_ones_iff b m base q).1 hmem
    have hpad : isPadding b q.1 q.2 = false := by
      by_contra hpad
      rw [hzero _ _ hi hj (by simpa using hpad)] at hbit
      cases hbit
    exact (mem_foreground_iff b m base _).2 ⟨onCanvas_pointOfBit hi hpad, bufBit_eq_pixAt b m base q.1 hj ▸ hbit⟩
  · obtain ⟨⟨-, hj⟩, -⟩ := (mem_ones_iff b m base q).1 hmem
    obtain ⟨⟨-, hj'⟩, -⟩ := (mem_ones_iff b m base q').1 hmem'
    have hback := congrArg (bitOfPoint b) heq
    rwa [bitOfPoint_pointOfBit b q.1 hj, bitOfPoint_pointOfBit b q'.1 hj'] at hback

/-- Settles O34. -/
theorem rotateKeepsThePixelCount : Obligations.RotateKeepsThePixelCount := by
  intro s t h
  have hv := rotatesTo_valid h
  have hpixels := pixelCount_of_rotatesTo h
  have hbits : bitCount s.build t.mem s.lcmd.db = pixelCount s.build t.mem s.lcmd.db :=
    Nat.le_antisymm (bitCount_le_pixelCount (rotatesTo_paddingZero h)) (pixelCount_le_bitCount hv _ _)
  exact ⟨hpixels, hbits.trans hpixels, pixelCount_le_bitCount hv _ _⟩

/-! Uniform images (R106). -/

/-- The bits of a full row are its columns left of N. -/
theorem fullRowByte_getLsbD (b : Build) (k : Nat) {j : Nat} (hj : j < 8) :
    (fullRowByte b k).getLsbD j = decide (8 * k + (7 - j) < b.n) := by
  have hones : (0xFF#8).getLsbD j = true := by
    rw [show 0xFF#8 = BitVec.allOnes 8 from rfl, BitVec.getLsbD_allOnes, decide_eq_true hj]
  unfold fullRowByte Build.minStride
  split
  · rw [hones, decide_eq_true (by omega)]
  split
  · split
    · rw [hones, decide_eq_true (by omega)]
    · rw [show 0xFF#8 = BitVec.allOnes 8 from rfl, BitVec.getLsbD_shiftLeft, BitVec.getLsbD_allOnes, Bool.eq_iff_iff]
      simp only [Bool.and_eq_true, Bool.not_eq_true', decide_eq_true_eq, decide_eq_false_iff_not]
      omega
  · rw [BitVec.getLsbD_zero, decide_eq_false (by omega)]

/-- A completed ROTATE of an image whose every pixel is `v` leaves `v` in every bit that is no padding. -/
theorem rotatesTo_bufBit_of_uniform {s t : State} (h : rotatesTo s t) {v : Bool}
    (huniform : ∀ p, OnCanvas s.build.n p → pixAt s.build s.mem s.lcmd.sb p = v) {i j : Nat}
    (hi : i < s.build.bufBytes) (hj : j < 8) :
    bufBit t.mem s.lcmd.db i j = (!isPadding s.build i j && v) := by
  rw [rotatesTo_bufBit_eq_rotatedBit h hi hj, rotatedBit_eq]
  cases hpad : isPadding s.build i j with
  | true => rfl
  | false => exact huniform _ ((onCanvas_pointOfBit hi hpad).turnPoint _)

/-- Settles O36. -/
theorem uniformImagesStayUniform : Obligations.UniformImagesStayUniform := by
  refine fun s t h => ⟨fun hall i hi => ?_, fun hall i hi => ?_⟩
  · refine read_eq_zero_of_bufBit fun j hj => ?_
    rw [rotatesTo_bufBit_of_uniform h (fun p hp => hall p.1 p.2 hp.1 hp.2) hi hj, Bool.and_false]
  · refine BitVec.eq_of_getLsbD_eq fun j hj => ?_
    refine (rotatesTo_bufBit_of_uniform h (fun p hp => hall p.1 p.2 hp.1 hp.2) hi hj).trans ?_
    rw [fullRowByte_getLsbD _ _ hj, Bool.and_true, isPadding, bitColumn, ← decide_not]
    exact decide_eq_decide.2 Nat.not_le

/-! The order of the source coordinates (R108). -/

/-- Pixels stamped in any order add the bits of all of them. -/
theorem foldl_stampPixel_bit (b : Build) (scr : Memory) (d : Bool) (db a : Nat) {j : Nat} (hj : j < 8)
    (order : List (Nat × Nat)) (m : Memory) :
    ((order.foldl (fun m' p => stampPixel b scr d db p.1 p.2 m') m).read a).getLsbD j = true ↔
      (m.read a).getLsbD j = true ∨ ∃ p ∈ order, stampsBit b scr d db a j p.1 p.2 := by
  induction order generalizing m with
  | nil => simp
  | cons p rest ih =>
    rw [List.foldl_cons, ih, stampPixel_bit b scr d db p.1 p.2 m a j hj, List.exists_mem_cons_iff, or_assoc]

/-- Settles O37: by `stampImage_bit` the rows of stages 2 to 4 add the same bits. -/
theorem scanOrderDoesNotMatter : Obligations.ScanOrderDoesNotMatter := by
  intro b scr m d db order _ hcanvas a
  refine BitVec.eq_of_getLsbD_eq fun j hj => Bool.eq_iff_iff.2 ?_
  rw [foldl_stampPixel_bit b scr d db a hj, stampImage_bit b scr d db m a j hj]
  refine or_congr_right ⟨?_, ?_⟩
  · rintro ⟨⟨x, y⟩, hmem, hstamp⟩
    obtain ⟨hx, hy⟩ := (hcanvas x y).1 hmem
    exact ⟨y, hy, x, hx, hstamp⟩
  · rintro ⟨y, hy, x, hx, hstamp⟩
    exact ⟨(x, y), (hcanvas x y).2 ⟨hx, hy⟩, hstamp⟩

end Sys2Proof.Machine

/-! The statements from 42_buffer_control.md: the perform steps of NOP and CLEAR that no hazard has struck
(`exec_of_quiet`). The loop of CLEAR over its region is `Memory.read_clear`. -/

namespace Sys2Proof.Machine

theorem clearBuffer_of_not_raced {s : State} (h : s.raced = false) :
    s.clearBuffer = { s with mem := s.mem.clear s.lcmd.db.toNat s.build.bufBytes } := by
  simp [State.clearBuffer, h]

/-- Settles O24: the effect of CLEAR writes memory alone, byte by byte as `Memory.read_clear` says. -/
theorem clearZeroesTheBuffer : Obligations.ClearZeroesTheBuffer := by
  intro s hq hregion
  obtain ⟨-, hraced⟩ := (quiet_iff s).1 hq
  have hrange : ¬outOfRange s.build.n .clear := id
  refine ⟨_, exec_of_quiet hq hrange hregion, ?_⟩
  rw [effectOf, clearBuffer_of_not_raced hraced]
  exact ⟨rfl, Memory.read_clear s.mem _ _⟩

/-- Settles O23: NOP has no operand to be out of range, no buffer to be out of bounds, and no effect. -/
theorem nopCompletes : Obligations.NopCompletes := by
  intro s hq
  have hrange : ¬outOfRange s.build.n .nop := id
  have hbounds : buffersInBounds s.build s.lcmd.sb s.lcmd.db .nop := trivial
  rw [exec_of_quiet hq hrange hbounds, effectOf, id]

end Sys2Proof.Machine

/-! The statements from 60_exceptions.md: submission (R116 to R119), completion (R120, R134), the interrupt output (R121)
and the invalidation pulse (R123). `exec_of_legal` and the two lemmas before it say what a submission makes of a decoded
command, and `exec_of_busy_errorRecord` that no perform step depends on the error record. -/

namespace Sys2Proof.Machine

/-! The submission of a decoded command to the idle block (R116, R118, R119). -/

/-- Settles O51: a taken CMD write is a submission, and the idle block decodes its word. -/
theorem stepRunsTheSubmittedCommand : Obligations.StepRunsTheSubmittedCommand := by
  intro s w i hr hb hw hd
  rw [step_hostCommands hr hw, State.submit, State.afterOp_busy, hb, hd]
  rfl

/-- RANGE comes before BOUNDS (R119). -/
theorem exec_of_outOfRange {s : State} {i : Instr} (hb : s.busy = false) (hrange : outOfRange s.build.n i) :
    exec i s = .next (recorded 3#4 s) := by
  have hr : rangeOk s.build i = false := Bool.eq_false_iff.2 fun h => (rangeOk_iff _ _).1 h hrange
  rw [exec_idle i s hb, hr, reject_eq_recorded]
  rfl

theorem exec_of_outOfBounds {s : State} {i : Instr} (hb : s.busy = false) (hrange : ¬outOfRange s.build.n i)
    (hbounds : ¬buffersInBounds s.build s.srcBase s.dstBase i) : exec i s = .next (recorded 4#4 s) := by
  have hi : boundsOk s.build s.srcBase s.dstBase i = false :=
    Bool.eq_false_iff.2 fun h => hbounds ((boundsOk_iff _ _ _ _).1 h)
  rw [exec_idle i s hb, (rangeOk_iff _ _).2 hrange, hi, reject_eq_recorded s .bounds]
  rfl

theorem exec_of_legal {s : State} {i : Instr} (hb : s.busy = false) (hrange : ¬outOfRange s.build.n i)
    (hbounds : buffersInBounds s.build s.srcBase s.dstBase i) : exec i s = .next (accepted i s) := by
  rw [exec_idle i s hb, (rangeOk_iff _ _).2 hrange, (boundsOk_iff _ _ _ _).2 hbounds]
  rfl

/-- BUSY is tested before the word is decoded (R117, R119). -/
theorem step_of_busy {s : State} {w : Word} (hr : s.runs = true) (hb : s.busy = true) (hw : s.hostCommands w) :
    step s = .next (recorded 2#4 s.afterOp) := by
  rw [step_hostCommands hr hw, State.submit, State.afterOp_busy, if_pos hb, reject_eq_recorded, Reject.code]

/-- Settles O21: the tests BUSY and ILLEGAL are the submission's, RANGE and BOUNDS the decoded command's. -/
theorem submissionFollowsTheProcedure : Obligations.SubmissionFollowsTheProcedure := by
  refine fun s w hr hw => ⟨fun hb => step_of_busy hr hb hw, fun hb hd => ?_, fun i hb hd => ?_⟩
  · exact step_of_decode_error (decode_error_of_forall_ne hd) hr hb hw
  · rw [stepRunsTheSubmittedCommand s w i hr hb hw hd]
    exact ⟨exec_of_outOfRange (s := s.afterOp) hb, exec_of_outOfBounds (s := s.afterOp) hb,
      exec_of_legal (s := s.afterOp) hb⟩

/-! The error record and the command in flight (R117). -/

/-- No effect reads or writes ERRV and ERRCODE. -/
theorem effectOf_errorRecord (i : Instr) (s : State) (e : Bool) (c : BitVec 4) :
    effectOf i { s with errv := e, errcode := c } = { effectOf i s with errv := e, errcode := c } := by
  cases i with
  | nop => rfl
  | rotate =>
    simp only [effectOf, State.rotateBuffer]
    split <;> rfl
  | clear =>
    simp only [effectOf, State.clearBuffer]
    split <;> rfl
  | getpix x y =>
    simp only [effectOf, State.readPixel]
    split <;> rfl
  | setpix x y v =>
    simp only [effectOf, State.writePixel]
    split <;> rfl

/-- A perform step answers the same next state under any error record, that record apart. -/
theorem exec_of_busy_errorRecord {i : Instr} {s u : State} (hb : s.busy = true) (h : exec i s = .next u) (e : Bool)
    (c : BitVec 4) :
    exec i { s with errv := e, errcode := c } = .next { u with errv := e, errcode := c } := by
  rcases exec_next h with ⟨-, hr, hi, rfl⟩ | ⟨hidle, -⟩ | ⟨hidle, -⟩ | ⟨hidle, -⟩
  · rw [exec_busy i { s with errv := e, errcode := c } hb, hr, hi, effectOf_errorRecord]
    rfl
  all_goals simp [hb] at hidle

/-- Settles O22. -/
theorem busyBlockRejectsEveryWord : Obligations.BusyBlockRejectsEveryWord := by
  intro s t w hr hb hw h
  rw [step_of_busy hr hb hw] at h
  cases h
  exact ⟨rfl, fun i u hu => ⟨_, exec_of_busy_errorRecord (s := s.afterOp) hb hu _ _, rfl⟩⟩

/-! Completion (R120, R134, 70_reset_and_hazards.md R149). -/

/-- Operands that fit are those of a command. -/
theorem exists_instr_of_fits {b : Build} {l : Latched} (h : l.fits b = true) : ∃ i, l.instr = some i := by
  cases hi : l.instr with
  | some i => exact ⟨i, rfl⟩
  | none => simp [Latched.fits, hi] at h

/-- The engine completes a command in flight whose latched operands fit. -/
theorem step_engine_of_fits {s : State} (hr : s.runs = true) (ht : s.turn = .engine) (hb : s.busy = true)
    (hfits : s.lcmd.fits s.build = true) : ∃ i, step s = .next (effectOf i s.begin).complete := by
  obtain ⟨i, hi⟩ := exists_instr_of_fits hfits
  exact ⟨i, (stepPerformsTheLatchedCommand.1 s i hr ht hb hi).trans (exec_of_fits (s := s.begin) hb hi hfits)⟩

/-- Settles O56: by the invariant, what is in flight fits. -/
theorem acceptedCommandNeverFaults : Obligations.AcceptedCommandNeverFaults := by
  intro s hs hr ht
  cases hb : s.busy with
  | false => exact ⟨s.begin, step_idle hr hb (.inl ht), hb, by simp⟩
  | true =>
    obtain ⟨i, hstep⟩ := step_engine_of_fits hr ht hb (hs.busy_fits hb)
    exact ⟨_, hstep, rfl, fun _ => rfl⟩

theorem run_succ_of_next (M : Host.Core) (k : Nat) {s t : M.State} (h : M.step s = .next t) :
    M.run (k + 1) s = M.run k t := by
  rw [Host.Core.run, h]

theorem run_one (M : Host.Core) (s : M.State) : M.run 1 s = M.step s := by
  rw [Host.Core.run]
  cases M.step s <;> rfl

/-- Two steps, the first of which answers a next state, end as the second does. -/
theorem run_two {s t : State} (h : step s = .next t) : Sys2Proof.core.run 2 s = step t :=
  (run_succ_of_next Sys2Proof.core 1 h).trans (run_one Sys2Proof.core t)

/-- With no turn listed, the engine has the turn after an acceptance (log 5). -/
theorem turn_accepted (i : Instr) {s : State} (h : s.turns = []) : (accepted i s).turn = .engine := by
  simp [State.turn, accepted, h]

/-- Settles O57: the acceptance of O21, then the engine's turn of O56, whose premise O59 carries over. -/
theorem acceptedCommandCompletes : Obligations.AcceptedCommandCompletes := by
  intro s w i hs hr hb hw hturns hd hrange hbounds
  obtain ⟨-, -, hsubmit⟩ := submissionFollowsTheProcedure s w hr hw
  obtain ⟨-, -, haccept⟩ := hsubmit i hb hd
  have hstep : step s = .next (accepted i s.afterOp) := haccept hrange hbounds
  have hturn : (accepted i s.afterOp).turn = .engine := turn_accepted i hturns
  obtain ⟨hperform, hlatched⟩ := stepPerformsTheLatchedCommand
  have hsecond := hperform (accepted i s.afterOp) i hr hturn rfl (hlatched s.afterOp i (decode_wf hd))
  obtain ⟨t, ht, hbusy, hdone⟩ :=
    acceptedCommandNeverFaults _ (everyStepKeepsTheInvariant s _ hs hstep) hr hturn
  obtain ⟨j, -, heffect⟩ := step_performs ht hturn rfl
  rw [run_two hstep]
  refine ⟨hsecond, t, ht, hbusy, hdone rfl, ?_, ?_⟩
  · rw [heffect, State.complete_errv, effectOf_errv]
    rfl
  · rw [heffect, State.complete_errcode, effectOf_errcode]
    rfl

/-! The outputs (R121, R123). -/

/-- A flag is the one bit of its word at its place. -/
theorem flagAt_getLsbD (b : Bool) {k j : Nat} (hj : j < 32) : (flagAt b k).getLsbD j = (decide (j = k) && b) := by
  rw [flagAt, BitVec.getLsbD_shiftLeft, BitVec.getLsbD_setWidth, BitVec.getLsbD_ofBool, decide_eq_true hj]
  by_cases hk : j = k
  · simp [hk]
  · have hplace : k ≤ j → j - k ≠ 0 := by omega
    simp only [hk, decide_false, Bool.false_and]
    by_cases hle : k ≤ j
    · simp [hplace hle]
    · simp [hle]

theorem ctrlWord_irqEn (s : State) : s.ctrlWord.getLsbD 1 = s.irqEn := by
  rw [State.ctrlWord, ctrlBits, BitVec.getLsbD_or, flagAt_getLsbD _ (by decide), flagAt_getLsbD _ (by decide)]
  simp

/-- Below ERRCODE a bit of STATUS is that of its flag (10_state.md R31). -/
theorem statusWord_getLsbD (s : State) {j : Nat} (hj : j < 4) :
    s.statusWord.getLsbD j =
      (decide (j = 3) && s.errv || decide (j = 2) && s.inval || decide (j = 1) && s.done ||
        decide (j = 0) && s.busy) := by
  have hflag (b : Bool) (k : Nat) := flagAt_getLsbD b (k := k) (show j < 32 by omega)
  rw [State.statusWord, BitVec.getLsbD_or, BitVec.getLsbD_or, BitVec.getLsbD_or, BitVec.getLsbD_or, hflag, hflag,
    hflag, hflag, BitVec.getLsbD_shiftLeft, decide_eq_true hj]
  simp

/-- Settles O39. -/
theorem interruptFollowsStatus : Obligations.InterruptFollowsStatus := by
  refine ⟨fun s => ?_, rfl, fun i s he => ?_⟩
  · have hctrl : registerValue s 0x0C = s.ctrlWord := (ctrl_word _ _).symm
    have hstatus : registerValue s 0x1C = s.statusWord := (status_word s).symm
    rw [hctrl, hstatus, ctrlWord_irqEn, statusWord_getLsbD s (by decide), statusWord_getLsbD s (by decide)]
    simp [State.irqO]
  · simp [State.irqO, accepted, he]

theorem step_invalO_of_rotate {s t : State} (h : step s = .next t) (hp : s.performs 0x1#4) : t.invalO = true := by
  obtain ⟨ht, hb, hop⟩ := hp
  obtain ⟨i, hi, rfl⟩ := step_performs h ht hb
  simp [instr_op hi, hop]

/-- Every step ends the pulse of the step before, and of the perform steps only that of ROTATE raises its own. -/
theorem performs_of_step_invalO {s t : State} (h : step s = .next t) (hp : t.invalO = true) : s.performs 0x1#4 := by
  cases step_cases h with
  | performed i ht hb hl _ _ eq =>
    have hop : i.op = 0x1#4 := by simpa [eq] using hp
    exact ⟨ht, hb, instr_op hl ▸ hop⟩
  | _ => rename_i eq; subst eq; simp at hp

/-- Settles O40. -/
theorem pulseExactlyOnRotateCompletion : Obligations.PulseExactlyOnRotateCompletion := by
  refine fun s t h => ⟨⟨performs_of_step_invalO h, step_invalO_of_rotate h⟩, fun hp => ?_⟩
  obtain ⟨hinval, -, -⟩ := step_pulse_inval h hp
  exact hinval

end Sys2Proof.Machine

/-! The statements from 70_reset_and_hazards.md: the state right after reset, the assertion and the release of rst, and
the host's writes while it is asserted (R137 to R139). -/

namespace Sys2Proof.Machine

/-! The reset values (R137). -/

/-- With IRQ_EN at its reset value irq_o is down. -/
theorem irqO_eq_false_of_registersReset {s : State} (h : s.registersReset = true) : s.irqO = false := by
  have hirq : s.irqEn = false := by
    by_contra hne
    simp [State.registersReset, hne] at h
  simp [State.irqO, hirq]

/-- Settles O47: each value is read off the reset state, irq_o through the reset value of IRQ_EN. -/
theorem resetStateHasTheResetValues : Obligations.ResetStateHasTheResetValues := by
  have hregs : State.reset.registersReset = true := rfl
  exact ⟨hregs, irqO_eq_false_of_registersReset hregs, rfl, rfl, rfl, rfl, rfl, rfl, rfl, rfl⟩

/-- The build of log 1: a canvas of 256 rows of 32 bytes in a memory of 4 GiB (00_scope.md R7 to R11). -/
theorem reset_build_valid : State.reset.build.valid = true := by decide

/-- Settles O60: nothing is written yet, no error is recorded, and the clauses about a command in flight, a hazard, the
pin rst and the inval_o pulse ask nothing of a state without them. -/
theorem resetStateHasTheInvariant : Obligations.ResetStateHasTheInvariant where
  build_valid := reset_build_valid
  mem_wf := reset_mem_wf
  mem_below := rfl
  scr_wf := reset_scr_wf
  scr_below := rfl
  errcode_legal := Nat.zero_le 4
  errcode_errv := iff_of_true rfl rfl
  busy_done _ := rfl
  busy_fits := nofun
  raced_busy := nofun
  rst_registers := nofun
  pulse_inval := nofun

/-! The assertion and the release of rst (R137, R138, R139). -/

/-- Reset scrambles the write set of a command in flight and no other byte of surface memory (R138). -/
theorem assertReset_read_outside {s : State} {a : Nat}
    (h : s.busy = true → (writeSet s.build s.lcmd).has a = false) : s.assertReset.mem.read a = s.mem.read a := by
  rw [State.assertReset_mem]
  split
  · rename_i hb
    exact scrambleMem_read_outside s (writeSet s.build s.lcmd) (h hb)
  · rfl

/-- Settles O48. -/
theorem resetEventClearsTheRegisters : Obligations.ResetEventClearsTheRegisters := by
  intro s hr hreset
  have hregs : s.begin.assertReset.registersReset = true := assertReset_registersReset s.begin
  exact ⟨s.begin.assertReset, step_reset s hr true hreset, hregs, irqO_eq_false_of_registersReset hregs,
    State.assertReset_invalO _, State.assertReset_rst _, State.assertReset_build _, State.assertReset_faults _,
    State.assertReset_refused _, State.assertReset_prog _, State.assertReset_hostPc _, State.assertReset_names _,
    State.assertReset_rdata _, fun _ => assertReset_read_outside (s := s.begin)⟩

/-- Settles O49: the registers that `rst_registers` speaks of are those of the state before the release. -/
theorem releaseOfResetChangesNothingElse : Obligations.ReleaseOfResetChangesNothingElse := by
  intro s hr ht
  refine ⟨s.begin.resetTurn false, step_reset s hr false ht, rfl, fun hinv hrst => ?_⟩
  have hregs : (s.begin.resetTurn false).registersReset = true := hinv.rst_registers hrst
  exact ⟨hregs, irqO_eq_false_of_registersReset hregs⟩

/-! The host's register writes while rst is asserted (R137, log 10). -/

theorem writeReg_of_rst {s : State} (h : s.rst = true) (r : Reg) (v : Word) : s.writeReg r v = .next s := by
  unfold State.writeReg
  rw [if_pos h]

/-- Settles O50: both spellings are a write of the register CMD, the host moved on already. -/
theorem commandDuringResetIsIgnored : Obligations.CommandDuringResetIsIgnored := by
  rintro s hr ht hrst (⟨w, hn⟩ | ⟨i, hwf, hn⟩)
  · rw [step_hostOp hr ht hn, State.hostOp, if_pos ((wordAccess_iff 0x18#6 .word).2 ⟨rfl, rfl⟩), begin_advance]
    exact writeReg_of_rst (s := s.afterOp) hrst _ w
  · rw [step_hostOp hr ht hn, State.hostOp, if_pos hwf, begin_advance]
    exact writeReg_of_rst (s := s.afterOp) hrst .cmd (encode i)

end Sys2Proof.Machine

/-! The statement from 20_memory.md section 5: the access sets of the command in LCMD. An OP selects one row of the table,
and a row is a whole region, the one byte of a pixel, or no byte. -/

namespace Sys2Proof.Machine

theorem Span.has_iff (r : Span) (a : Nat) : r.has a = true ↔ r.start ≤ a ∧ a < r.start + r.len := by
  simp [Span.has]

theorem region_has_iff (b : Build) (base : Word) (a : Nat) :
    (region b base).has a = true ↔ base.toNat ≤ a ∧ a < base.toNat + b.bufBytes :=
  Span.has_iff (region b base) a

theorem pixelSpan_has_iff (b : Build) (base : Word) (x y a : Nat) :
    (pixelSpan b base x y).has a = true ↔ a = base.toNat + y * b.stride + x / 8 := by
  rw [Span.has_iff]
  simp only [pixelSpan, byteAddr]
  omega

theorem emptySpan_has (a : Nat) : emptySpan.has a = false :=
  (Span.has_eq_false_iff emptySpan a).2 fun ⟨hle, hlt⟩ => Nat.not_lt_of_le hle hlt

/-- RD: ROTATE reads its source region, GETPIX and SETPIX the byte of their pixel. -/
theorem readSet_has_iff (b : Build) (l : Latched) (a : Nat) :
    (readSet b l).has a = true ↔
      (l.op = 0x1#4 ∧ l.sb.toNat ≤ a ∧ a < l.sb.toNat + b.bufBytes) ∨
      (l.op = 0x3#4 ∧ a = l.sb.toNat + l.y.toNat * b.stride + l.x.toNat / 8) ∨
      (l.op = 0x4#4 ∧ a = l.db.toNat + l.y.toNat * b.stride + l.x.toNat / 8) := by
  unfold readSet
  split
  next rotate => simp [rotate, region_has_iff]
  next notRotate =>
    split
    next getpix => simp [getpix, pixelSpan_has_iff]
    next notGetpix =>
      split
      next setpix => simp [setpix, pixelSpan_has_iff]
      next notSetpix => simp [notRotate, notGetpix, notSetpix, emptySpan_has]

/-- WR: ROTATE and CLEAR write their destination region, SETPIX the byte of its pixel. -/
theorem writeSet_has_iff (b : Build) (l : Latched) (a : Nat) :
    (writeSet b l).has a = true ↔
      ((l.op = 0x1#4 ∨ l.op = 0x2#4) ∧ l.db.toNat ≤ a ∧ a < l.db.toNat + b.bufBytes) ∨
      (l.op = 0x4#4 ∧ a = l.db.toNat + l.y.toNat * b.stride + l.x.toNat / 8) := by
  unfold writeSet
  split
  next rotate => simp [rotate, region_has_iff]
  next notRotate =>
    split
    next clear => simp [clear, region_has_iff]
    next notClear =>
      split
      next setpix => simp [setpix, pixelSpan_has_iff]
      next notSetpix => simp [notRotate, notClear, notSetpix, emptySpan_has]

/-- Settles O43. -/
theorem accessSetsAreTheTable : Obligations.AccessSetsAreTheTable :=
  fun b l a => ⟨readSet_has_iff b l a, writeSet_has_iff b l a⟩

end Sys2Proof.Machine
